-- ==== Sys2Proof/Word.lean ====
section
/-! DEFINITION. The value types of the SHTP codec block (00_scope.md R10, R11): bytes, the 16- and 32-bit
fields of its records and registers, byte strings, and the channel numbers 0..5. -/

namespace Sys2Proof

/-- An unsigned 8-bit value (R10). -/
abbrev Byte := BitVec 8

/-- A 16-bit field: the count word (R80), a register number (R37), `rsp.count` (R71). -/
abbrev Half := BitVec 16

/-- A 32-bit field: a REG_READ value (R37, R54), `rsp.info` (R71), a timestamp (`TS_W` = 32, R8). -/
abbrev Word := BitVec 32

/-- A byte string (R11). -/
abbrev Bytes := List Byte

/-- One of the six channels, 0..5 (`N_CH` = 6, R8). The only values that index `SEQ` (R23). -/
abbrev Channel := Fin 6

end Sys2Proof
end

