-- ==== Sys2Proof/Syntax.lean ====
section
/-! DEFINITION. The instructions: the twelve operations and the reserved opcodes (30_encoding.md R73, R74), and the
request record in which the requester sends one (R70). -/

namespace Sys2Proof

/-- The request record (R70). An operand that is not written takes the value 0, or the empty string (R75). -/
structure Request where
  op     : Byte
  ch     : Byte  := 0#8
  seq    : Byte  := 0#8
  bytes  : Bytes := []
  ok     : Bool  := false
  id     : Byte  := 0#8
  cmd    : Byte  := 0#8
  params : Bytes := []
  now    : Word  := 0#32
  reg    : Half  := 0#16
deriving DecidableEq, Repr

/-- The operations, each with the request fields it reads (R70, R73). The seven RESERVED rows of the opcode table are
the match/mask cover of one instruction (R74: "every reserved value behaves the same", R164), here `reserved`. -/
inductive Instr where
  | reset
  | hdrDecode (bytes : Bytes)
  | hdrEncode (ch seq : Byte) (bytes : Bytes)
  | txFrame (ch : Byte) (bytes : Bytes)
  | txCommit (ok : Bool)
  | rxFrame (bytes : Bytes)
  | lenLookup (id : Byte)
  | split
  | popSlice
  | cmdIssue (cmd : Byte) (params : Bytes)
  | cmdResponse (bytes : Bytes) (now : Word)
  | regRead (reg : Half)
  | reserved (op : Byte)
deriving DecidableEq, Repr

end Sys2Proof
end

