-- ==== Sys2Proof/WellFormed.lean ====
section
/-! DEFINITION. Which instructions exist. Every operand of the twelve operations is legal at every value of its field
and every byte string at any length (30_encoding.md R69, R70): a bad value is answered with a status, never ruled out.
The one check is that a reserved instruction carries a reserved opcode (R74). -/

namespace Sys2Proof

/-- The 243 reserved opcodes, 0x00 and 0x0D..0xFF (R74). -/
def reservedOp (op : Byte) : Bool := op.toNat == 0 || 0x0D ≤ op.toNat

/-- Well-formedness of an instruction. -/
def Instr.wf : Instr → Bool
  | .reset => true
  | .hdrDecode _ => true
  | .hdrEncode _ _ _ => true
  | .txFrame _ _ => true
  | .txCommit _ => true
  | .rxFrame _ => true
  | .lenLookup _ => true
  | .split => true
  | .popSlice => true
  | .cmdIssue _ _ => true
  | .cmdResponse _ _ => true
  | .regRead _ => true
  | .reserved op => reservedOp op

end Sys2Proof
end

