-- ==== Sys2Proof/Decode.lean ====
section
/-! DEFINITION. The opcode map (30_encoding.md R72 to R74): the decoder from a request record, the encoder back to one,
the opcode table's rows, and the host's view of the decoder on a table word. An operation's length is one request and
its opcode is the whole 8-bit `op` field (R72), so decoding is total: an opcode with no operation is `reserved`. -/

namespace Sys2Proof

/-- The instruction a request asks for (R72, R73). A field the operation does not read has no effect on it (R70). -/
def decode (r : Request) : Instr :=
  match r.op.toNat with
  | 0x01 => .reset
  | 0x02 => .hdrDecode r.bytes
  | 0x03 => .hdrEncode r.ch r.seq r.bytes
  | 0x04 => .txFrame r.ch r.bytes
  | 0x05 => .txCommit r.ok
  | 0x06 => .rxFrame r.bytes
  | 0x07 => .lenLookup r.id
  | 0x08 => .split
  | 0x09 => .popSlice
  | 0x0A => .cmdIssue r.cmd r.params
  | 0x0B => .cmdResponse r.bytes r.now
  | 0x0C => .regRead r.reg
  | _ => .reserved r.op

/-- The request of an instruction (R73), with every field it does not read at its default (R75). -/
def encode : Instr → Request
  | .reset => { op := 0x01#8 }
  | .hdrDecode bytes => { op := 0x02#8, bytes := bytes }
  | .hdrEncode ch seq bytes => { op := 0x03#8, ch := ch, seq := seq, bytes := bytes }
  | .txFrame ch bytes => { op := 0x04#8, ch := ch, bytes := bytes }
  | .txCommit ok => { op := 0x05#8, ok := ok }
  | .rxFrame bytes => { op := 0x06#8, bytes := bytes }
  | .lenLookup id => { op := 0x07#8, id := id }
  | .split => { op := 0x08#8 }
  | .popSlice => { op := 0x09#8 }
  | .cmdIssue cmd params => { op := 0x0A#8, cmd := cmd, params := params }
  | .cmdResponse bytes now => { op := 0x0B#8, bytes := bytes, now := now }
  | .regRead reg => { op := 0x0C#8, reg := reg }
  | .reserved op => { op := op }

/-- One row of the opcode table: the row matches an opcode whose bits under `mask` are `pattern` (R74). -/
structure OpRow where
  mnemonic : String
  pattern  : Byte
  mask     : Byte
deriving DecidableEq, Repr

/-- Does the row match the opcode? -/
def OpRow.covers (row : OpRow) (op : Byte) : Bool := op &&& row.mask == row.pattern

/-- The nineteen rows of the opcode table: twelve operations and the seven that cover the reserved space (R73, R74). -/
def opcodeRows : List OpRow :=
  [⟨"RESET", 0x01#8, 0xFF#8⟩, ⟨"HDR_DECODE", 0x02#8, 0xFF#8⟩, ⟨"HDR_ENCODE", 0x03#8, 0xFF#8⟩,
   ⟨"TX_FRAME", 0x04#8, 0xFF#8⟩, ⟨"TX_COMMIT", 0x05#8, 0xFF#8⟩, ⟨"RX_FRAME", 0x06#8, 0xFF#8⟩]
  ++ [⟨"LEN_LOOKUP", 0x07#8, 0xFF#8⟩, ⟨"SPLIT", 0x08#8, 0xFF#8⟩, ⟨"POP_SLICE", 0x09#8, 0xFF#8⟩,
   ⟨"CMD_ISSUE", 0x0A#8, 0xFF#8⟩, ⟨"CMD_RESPONSE", 0x0B#8, 0xFF#8⟩, ⟨"REG_READ", 0x0C#8, 0xFF#8⟩]
  ++ [⟨"RESERVED", 0x00#8, 0xFF#8⟩, ⟨"RESERVED", 0x0D#8, 0xFF#8⟩, ⟨"RESERVED", 0x0E#8, 0xFE#8⟩,
   ⟨"RESERVED", 0x10#8, 0xF0#8⟩, ⟨"RESERVED", 0x20#8, 0xE0#8⟩, ⟨"RESERVED", 0x40#8, 0xC0#8⟩,
   ⟨"RESERVED", 0x80#8, 0x80#8⟩]

/-- The mnemonic of an instruction, as the opcode table spells it. -/
def Instr.mnemonic : Instr → String
  | .reset => "RESET"
  | .hdrDecode _ => "HDR_DECODE"
  | .hdrEncode _ _ _ => "HDR_ENCODE"
  | .txFrame _ _ => "TX_FRAME"
  | .txCommit _ => "TX_COMMIT"
  | .rxFrame _ => "RX_FRAME"
  | .lenLookup _ => "LEN_LOOKUP"
  | .split => "SPLIT"
  | .popSlice => "POP_SLICE"
  | .cmdIssue _ _ => "CMD_ISSUE"
  | .cmdResponse _ _ => "CMD_RESPONSE"
  | .regRead _ => "REG_READ"
  | .reserved _ => "RESERVED"

/-- The request whose opcode is the table word `w` and whose operand fields are all 0 or empty; none for a word that
the one 8-bit format of R72 cannot hold. -/
def tableRequest (nbits w : Nat) : Option Request :=
  if nbits = 8 ∧ w < 256 then some { op := BitVec.ofNat 8 w } else none

/-- What the decoder reads from the table word `w` of `nbits` bits. -/
def decodeTableWord (nbits w : Nat) : Option Instr := (tableRequest nbits w).map decode

end Sys2Proof
end

