-- ==== Sys2Proof/Config.lean ====
section
/-! DEFINITION. The parameters the block is built with (00_scope.md R8), as plain data, the fixed constants of
R8, the reference configuration of 93_implementation_defined.md I1 and I2, and the free values. -/

namespace Sys2Proof

/-- How the all-ones error test reads the count: `RAW` reads the 16-bit count word before masking, `MASKED` the
15-bit masked count (R8, R82; 90_conflicts.md C1). -/
inductive AllOnesMode where
  | raw
  | masked
deriving DecidableEq, Repr

/-- One defined entry of a report-length table: a report id and its length (R66). -/
structure LenRow where
  id  : Byte
  len : Nat
deriving DecidableEq, Repr

/-- The OPEN parameters of R8. They are arguments of the step relation, not state (10_state.md R36): no operation
writes them. Which values are legal is `Machine.Legal` (R9). -/
structure Config where
  /-- `SENSOR_LEN`: the partial map for ids 0x00..0xEF, listed by rising id. -/
  sensorLen      : List LenRow
  /-- `CONTROL_LEN`: the partial map for ids 0xF0..0xFF, listed by rising id. -/
  controlLen     : List LenRow
  /-- `REPORT_LEN_MAX`, 16..255. -/
  reportLenMax   : Nat
  /-- `STACK_DEPTH`: `some n` with n ≥ 1, or `none` for unbounded. -/
  stackDepth     : Option Nat
  /-- `ID_CMD_RESP`, the command response report id. -/
  idCmdResp      : Byte
  /-- `CMD_ME_CALIBRATE`. -/
  cmdMeCalibrate : Byte
  /-- `CMD_SAVE_DCD`. -/
  cmdSaveDcd     : Byte
  /-- `ALLONES_MODE`. -/
  allOnesMode    : AllOnesMode
deriving DecidableEq, Repr

namespace Config

/-- `PKT_CAP` = `DLEN_MAX` = 0x7FFB: the packet buffer's capacity and the largest data length (R8). -/
abbrev pktCap : Nat := 0x7FFB

/-- `ID_CMD_REQ` = 0xF2, the command request report id (R8). -/
abbrev idCmdReq : Byte := 0xF2#8

/-- `CH_CONTROL` = 2, the channel of command requests (R8). -/
abbrev chControl : Channel := 2

/-- `CMD_MAX_PARAMS` = 9 (R8). -/
abbrev cmdMaxParams : Nat := 9

/-- `CMD_RESP_LEN` = 16, the bytes of a command response report (R8, R65). -/
abbrev cmdRespLen : Nat := 16

/-- The reference configuration: the length tables of 93_implementation_defined.md I1, the ids and command codes of
I2, and `REPORT_LEN_MAX`, `STACK_DEPTH` and `ALLONES_MODE` as 95_test_vectors.md section 0 takes them.
PRESUMED (general knowledge, not normative): only `State.reset` uses it; see notes/assumptions/1.md. -/
def reference : Config where
  sensorLen :=
    [⟨0x01#8, 10⟩, ⟨0x02#8, 10⟩, ⟨0x03#8, 10⟩, ⟨0x04#8, 10⟩, ⟨0x05#8, 14⟩, ⟨0x06#8, 10⟩, ⟨0x08#8, 12⟩, ⟨0x09#8, 14⟩]
    ++ [⟨0x11#8, 12⟩, ⟨0x13#8, 6⟩, ⟨0x14#8, 16⟩, ⟨0x15#8, 16⟩, ⟨0x16#8, 16⟩, ⟨0x19#8, 6⟩, ⟨0x1E#8, 16⟩]
  controlLen := [⟨0xF1#8, 16⟩, ⟨0xF8#8, 16⟩, ⟨0xFA#8, 5⟩, ⟨0xFB#8, 5⟩, ⟨0xFC#8, 17⟩]
  reportLenMax := 17
  stackDepth := some 8
  idCmdResp := 0xF1#8
  cmdMeCalibrate := 0x07#8
  cmdSaveDcd := 0x06#8
  allOnesMode := .raw

/-- FREE VALUE. The 32-bit `rsp.info` for a byte string of 2^32 bytes or more, whose length R171 asks for and the
32-bit field cannot hold. The spec states no value there; notes/assumptions/4.md. -/
opaque wideLength : Nat → Word

/-- FREE VALUE. The 16-bit `DEPTH` that REG_READ returns when the slice stack holds 2^16 entries or more (possible
only where `STACK_DEPTH` is unbounded or above 0xFFFF). The spec states no value there; notes/assumptions/3.md. -/
opaque wideDepth : Nat → Half

end Config

end Sys2Proof
end

