-- ==== Sys2Proof/Machine/State.lean ====
section
/-! DEFINITION. The state of the block (10_state.md), the response record (30_encoding.md R71), the reasons a step can
stop, and the state after reset (R39). -/

namespace Sys2Proof.Machine

/-- The status codes (60_exceptions.md R170); their numbers are `statusCode`. -/
inductive Status where
  | ok
  | hdrError
  | framing
  | batchFraming
  | unknownReport
  | calSaveFailed
  | badChannel
  | oversize
  | tooManyParams
  | rxShort
  | stackOverflow
  | badResponse
  | noPendingTx
  | badReg
  | illegalOp
deriving DecidableEq, Repr

/-- The header classes (R25, R82); their numbers are `classCode`. `none` means no header has been latched. -/
inductive HdrClass where
  | none
  | valid
  | empty
  | error
deriving DecidableEq, Repr

/-- A decoded header: the latch `HDR` (R25) and the response field `rsp.hdr` (R71). -/
structure Hdr where
  bc   : BitVec 15 := 0#15
  cont : Bool      := false
  ch   : Byte      := 0#8
  seq  : Byte      := 0#8
  dlen : Half      := 0#16
  cls  : HdrClass  := .none
deriving DecidableEq, Repr

/-- A slice stack entry (R29). `bytes` is a copy of the report's bytes. -/
structure Slice where
  id    : Byte
  len   : Byte
  bytes : Bytes
deriving DecidableEq, Repr

/-- `TXP`, the pending-transmit register (R30). -/
structure Txp where
  valid : Bool    := false
  cmd   : Bool    := false
  ch    : Channel := 0
  code  : Byte    := 0#8
deriving DecidableEq, Repr

/-- `RSP`, the command-response latch (R33). `r[0]` is the command status. -/
structure RspLatch where
  valid       : Bool           := false
  reportId    : Byte           := 0#8
  seq         : Byte           := 0#8
  command     : Byte           := 0#8
  commandSeq  : Byte           := 0#8
  responseSeq : Byte           := 0#8
  r           : Vector Byte 11 := Vector.replicate 11 0#8
deriving DecidableEq, Repr

/-- The response record (R71). A field the operation's rule does not write holds the default given here. -/
structure Response where
  status : Status := .ok
  bytes  : Bytes  := []
  hdr    : Hdr    := {}
  hit    : Bool   := false
  len    : Byte   := 0#8
  id     : Byte   := 0#8
  valid  : Bool   := false
  count  : Half   := 0#16
  value  : Word   := 0#32
  info   : Word   := 0#32
deriving DecidableEq, Repr

/-- The machine. `cfg` is the step relation's argument (R36), `requests` and `rsp` are the requester's side of the
interface (R5, R6); every other field is a piece of the block's state, named as 10_state.md names it. -/
structure State where
  /-- The configuration the block is built with. Not state: no operation writes it (R36). -/
  cfg      : Config
  /-- `SEQ[0..5]` (R23). -/
  seq      : Vector Byte 6
  /-- `CMDSEQ[0x00..0xFF]` (R24). -/
  cmdSeq   : Vector Byte 256
  /-- `HDR` (R25). -/
  hdr      : Hdr
  /-- `PKT[0..PKT_LEN)` (R27). `PKT_LEN` (R26) is this string's length: bytes past it are not architectural. -/
  pkt      : Bytes
  /-- `STK[0..DEPTH)`, the oldest entry first (R28). `DEPTH` is this list's length: entries past it are not
  architectural. -/
  stk      : List Slice
  /-- `TXP` (R30). -/
  txp      : Txp
  /-- `ME_VALID` (R31). -/
  meValid  : Bool
  /-- `ME_TS` (R31). -/
  meTs     : Word
  /-- `DCD_VALID` (R32). -/
  dcdValid : Bool
  /-- `DCD_TS` (R32). -/
  dcdTs    : Word
  /-- `RSP` (R33). -/
  rspLatch : RspLatch
  /-- `ERR_SEEN` (R34). -/
  errSeen  : Half
  /-- `LAST_ERR` (R35). -/
  lastErr  : Byte
  /-- The requests the requester has still to issue, the next one first (R5, R6, R58). Not the block's state. -/
  requests : List Request
  /-- The response of the operation that ran last (R71). Not the block's state: no operation reads it. -/
  rsp      : Response
deriving DecidableEq, Repr

/-- Why the machine can stop. -/
inductive Fault where
  /-- Raised by `step`, before any operation, for a configuration that breaks a constraint of R8 or R9 ("A model refuses
  it before the first operation; it does not give it a meaning"; 93_implementation_defined.md U6: `fault`), and by
  SPLIT where a table entry of length 0 keeps its loop from ending, which such a configuration alone can have.
  Safe: the spec gives the block no behaviour there. -/
  | illegalConfig
deriving DecidableEq, Repr

/-- Why an instruction can have no meaning. -/
inductive Refusal where
  /-- An instruction whose meaning is not written. No arm of `exec` raises it. Safe. -/
  | notModelled (mnemonic : String)
deriving DecidableEq, Repr

/-- The block at power-on, built with configuration `c`, with nothing yet asked of it (R39, R161, R190). -/
def State.resetWith (c : Config) : State where
  cfg := c
  seq := Vector.replicate 6 0#8
  cmdSeq := Vector.replicate 256 0#8
  hdr := {}
  pkt := []
  stk := []
  txp := {}
  meValid := false
  meTs := 0#32
  dcdValid := false
  dcdTs := 0#32
  rspLatch := {}
  errSeen := 0#16
  lastErr := 0#8
  requests := []
  rsp := {}

/-- The machine right after reset (R39), under the reference configuration (notes/assumptions/1.md). -/
def State.reset : State := State.resetWith Config.reference

end Sys2Proof.Machine
end

