-- ==== Sys2Proof/Machine/Flags.lean ====
section
/-! DEFINITION. What the block has in place of flags: it has no condition codes (10_state.md R22), but it classifies
headers (40_packet_codec.md R82) and numbers its classes and statuses (R25, 60_exceptions.md R170, R172). -/

namespace Sys2Proof.Machine

/-- The 8-bit code of a status (R170). -/
def statusCode : Status → Byte
  | .ok => 0x00#8
  | .hdrError => 0x01#8
  | .framing => 0x02#8
  | .batchFraming => 0x03#8
  | .unknownReport => 0x04#8
  | .calSaveFailed => 0x05#8
  | .badChannel => 0x06#8
  | .oversize => 0x07#8
  | .tooManyParams => 0x08#8
  | .rxShort => 0x09#8
  | .stackOverflow => 0x0A#8
  | .badResponse => 0x0B#8
  | .noPendingTx => 0x0C#8
  | .badReg => 0x0D#8
  | .illegalOp => 0x0E#8

/-- Bit `s` of `ERR_SEEN` for status code `s` (R34, R172). -/
def errBit (st : Status) : Half := 1#16 <<< (statusCode st).toNat

/-- The 2-bit code of a header class (R25). -/
def classCode : HdrClass → BitVec 2
  | .none => 0#2
  | .valid => 1#2
  | .empty => 2#2
  | .error => 3#2

/-- `classify` (R82): channel out of range, then the all-ones pattern, then the zero count, then VALID. -/
def classify (mode : AllOnesMode) (raw : Half) (bc : BitVec 15) (ch seq : Byte) : HdrClass :=
  let cnt : Half := match mode with
    | .raw => raw
    | .masked => bc.setWidth 16
  if 5 < ch.toNat then .error
  else if cnt = 0xFFFF#16 ∧ seq = 0xFF#8 then .error
  else if bc = 0#15 then .empty
  else .valid

/-- The kinds of status (60_exceptions.md R170, R174). The block reports them and enforces nothing by them. -/
inductive StatusKind where
  | success
  | info
  | transient
  | fatal
  | argument
  | illegal
deriving DecidableEq, Repr

/-- The kind R170 gives each status. -/
def statusKind : Status → StatusKind
  | .ok => .success
  | .hdrError => .info
  | .framing => .transient
  | .batchFraming => .fatal
  | .unknownReport => .fatal
  | .calSaveFailed => .fatal
  | .badChannel => .argument
  | .oversize => .argument
  | .tooManyParams => .argument
  | .rxShort => .argument
  | .stackOverflow => .fatal
  | .badResponse => .argument
  | .noPendingTx => .argument
  | .badReg => .argument
  | .illegalOp => .illegal

/-- Does R170 call the status aborted: did the operation end with `raise`, changing nothing but the error record? -/
def statusAborts : Status → Bool
  | .ok => false
  | .hdrError => false
  | .framing => false
  | .batchFraming => true
  | .unknownReport => true
  | .calSaveFailed => false
  | .badChannel => true
  | .oversize => true
  | .tooManyParams => true
  | .rxShort => true
  | .stackOverflow => true
  | .badResponse => true
  | .noPendingTx => true
  | .badReg => true
  | .illegalOp => true

end Sys2Proof.Machine
end

