-- ==== Sys2Proof/Machine/Operands.lean ====
section
/-! DEFINITION. Operand forms: byte strings and their little-endian fields (00_scope.md R11, 20_memory.md R52, R53),
channel operands, lengths as `info` values, the report-length lookup (30_encoding.md R66), and which configurations are
legal (00_scope.md R8, R9). -/

namespace Sys2Proof.Machine

/-- `b[i]` (R11). The rules read it at offsets inside the string only; outside it this answers 0. -/
def byteAt (b : Bytes) (i : Nat) : Byte := b.getD i 0#8

/-- `LE16(b, i) = b[i] | (b[i+1] << 8)` of two bytes, the lower offset first (R11). -/
def le16 (lo hi : Byte) : Half := lo.setWidth 16 ||| (hi.setWidth 16 <<< 8)

/-- `le16(v) = [v[7:0], v[15:8]]` (R11). -/
def le16Bytes (v : Half) : Bytes := [v.extractLsb' 0 8, v.extractLsb' 8 8]

/-- `zeros(n)` (R11). -/
def zeros (n : Nat) : Bytes := List.replicate n 0#8

/-- A 1-bit value widened to 32 bits. -/
def bit32 (b : Bool) : Word := (BitVec.ofBool b).setWidth 32

/-- The channel a channel byte names, if it names one: 0..5 is valid, 6..255 is not (R60, R68). -/
def chan? (c : Byte) : Option Channel := if h : c.toNat < 6 then some ⟨c.toNat, h⟩ else none

/-- A channel as the header byte that carries it (R83). -/
def chanByte (c : Channel) : Byte := BitVec.ofNat 8 c.val

/-- A length reported in `rsp.info` (R171). A length the 32-bit field cannot hold has no stated value: a free value. -/
def infoOfLen (n : Nat) : Word := if n < 2 ^ 32 then BitVec.ofNat 32 n else Config.wideLength n

/-- The entry of one length table for a report id. -/
def rowLen (rows : List LenRow) (id : Byte) : Option Nat := (rows.find? (fun row => row.id == id)).map LenRow.len

/-- `LOOKUP(id)` (R66): ids below 0xF0 in `SENSOR_LEN`, the others in `CONTROL_LEN`; `none` is a miss. -/
def lookupLen (c : Config) (id : Byte) : Option Nat :=
  if id.toNat < 0xF0 then rowLen c.sensorLen id else rowLen c.controlLen id

/-- A length table is a partial map over the ids from `lo` to `hi` into 1..`mx`, listed by rising id (R8, R9 a and f). -/
abbrev LegalTable (rows : List LenRow) (lo hi mx : Nat) : Prop :=
  (rows.map (fun row => row.id.toNat)).Pairwise (· < ·) ∧
  ∀ row ∈ rows, lo ≤ row.id.toNat ∧ row.id.toNat ≤ hi ∧ 1 ≤ row.len ∧ row.len ≤ mx

/-- The legal configurations: the legal values of R8 and the constraints (a) to (f) of R9. -/
abbrev Legal (c : Config) : Prop :=
  LegalTable c.sensorLen 0x00 0xEF c.reportLenMax ∧
  LegalTable c.controlLen 0xF0 0xFF c.reportLenMax ∧
  (16 ≤ c.reportLenMax ∧ c.reportLenMax ≤ 255) ∧
  c.stackDepth ≠ some 0 ∧
  lookupLen c c.idCmdResp = some 16 ∧
  0xF0 ≤ c.idCmdResp.toNat ∧
  c.idCmdResp ≠ 0xF2#8 ∧
  c.cmdMeCalibrate ≠ c.cmdSaveDcd

end Sys2Proof.Machine
end

