-- ==== Sys2Proof/Machine/Ops.lean ====
section
/-! DEFINITION. The shared operations: the accessors of the numbered registers, the four ways an operation ends
(00_scope.md R13, R14) with the error record (60_exceptions.md R172), and the REG_READ register map (10_state.md R37).
The block takes no exceptions and returns from none (R178): `raiseWith` and `pureRaise` are what it has instead. -/

namespace Sys2Proof.Machine

/-- What a step or a meaning answers. -/
abbrev Result := Host.Outcome State Fault Refusal

/-! ### Channel sequences -/

/-- `SEQ[c]` (R23). -/
def readSeq (s : State) (c : Channel) : Byte := s.seq[c]

/-- `SEQ[c] <- v` (R23). -/
def writeSeq (c : Channel) (v : Byte) (s : State) : State := { s with seq := s.seq.set c v }

/-- `SEQ[c] <- SEQ[c] +% 1` (R104). -/
def bumpSeq (c : Channel) (s : State) : State := writeSeq c (readSeq s c + 1#8) s

/-- Mirror a received sequence (R108, R109). A channel byte 6..255 never indexes `SEQ` (R108). -/
def mirrorSeq (ch v : Byte) (s : State) : State :=
  match chan? ch with
  | some c => writeSeq c v s
  | none => s

/-! ### Command sequences -/

/-- `CMDSEQ[id]` (R24). -/
def readCmdSeq (s : State) (id : Byte) : Byte := s.cmdSeq[id.toNat]'(id.isLt)

/-- `CMDSEQ[id] <- CMDSEQ[id] +% 1` (R142). -/
def bumpCmdSeq (id : Byte) (s : State) : State :=
  { s with cmdSeq := s.cmdSeq.set id.toNat (readCmdSeq s id + 1#8) (id.isLt) }

/-! ### The error record and the endings of an operation -/

/-- The error record (R172): a non-zero status sets its bit of `ERR_SEEN` and is the new `LAST_ERR`. -/
def recordError (st : Status) (s : State) : State :=
  if st = .ok then s else { s with errSeen := s.errSeen ||| errBit st, lastErr := statusCode st }

/-- `return st` of a stateful operation (R13, R172): `s` holds the staged writes, which are committed. -/
def returnWith (st : Status) (r : Response) (s : State) : Result :=
  .next (recordError st { s with rsp := { r with status := st } })

/-- `raise st(info)` of a stateful operation (R13, R172): `s` is the state before the operation, every staged write being
discarded; every response field but the status and `info` holds its default. -/
def raiseWith (st : Status) (info : Word) (s : State) : Result :=
  .next (recordError st { s with rsp := { status := st, info := info } })

/-- `return OK` of a pure operation (R14): nothing but the response. -/
def pureReturn (r : Response) (s : State) : Result := .next { s with rsp := { r with status := .ok } }

/-- `raise st(info)` of a pure operation (R13, R14): no state is written, not even the error record. -/
def pureRaise (st : Status) (info : Word) (s : State) : Result :=
  .next { s with rsp := { status := st, info := info } }

/-! ### The register map -/

/-- The 16-bit `DEPTH` (R28, R37). From 2^16 entries on the field cannot hold the number: a free value. -/
def depthField (n : Nat) : Half := if n < 2 ^ 16 then BitVec.ofNat 16 n else Config.wideDepth n

/-- Word HDR0: `bc`, `cont`, `dlen` (R37). -/
def packHdr0 (h : Hdr) : Word := h.bc.setWidth 32 ||| (bit32 h.cont <<< 15) ||| (h.dlen.setWidth 32 <<< 16)

/-- Word HDR1: `ch`, `seq`, `cls` (R37). -/
def packHdr1 (h : Hdr) : Word :=
  h.ch.setWidth 32 ||| (h.seq.setWidth 32 <<< 8) ||| ((classCode h.cls).setWidth 32 <<< 16)

/-- Word `TXP`: `valid`, `cmd`, `ch`, `code` (R37). -/
def packTxp (t : Txp) : Word :=
  bit32 t.valid ||| (bit32 t.cmd <<< 1) ||| (BitVec.ofNat 32 t.ch.val <<< 8) ||| (t.code.setWidth 32 <<< 16)

/-- The rows of R37 that hold one register each: its number and its value. -/
def scalarRegs (s : State) : List (Nat × Word) :=
  [(0x10, packHdr0 s.hdr), (0x11, packHdr1 s.hdr), (0x12, BitVec.ofNat 32 s.pkt.length),
   (0x13, (depthField s.stk.length).setWidth 32), (0x14, packTxp s.txp),
   (0x30, bit32 s.meValid), (0x31, s.meTs), (0x32, bit32 s.dcdValid), (0x33, s.dcdTs)]
  ++ [(0x40, bit32 s.rspLatch.valid), (0x41, s.rspLatch.reportId.setWidth 32), (0x42, s.rspLatch.seq.setWidth 32),
   (0x43, s.rspLatch.command.setWidth 32), (0x44, s.rspLatch.commandSeq.setWidth 32),
   (0x45, s.rspLatch.responseSeq.setWidth 32), (0x60, s.errSeen.setWidth 32), (0x61, s.lastErr.setWidth 32)]

/-- The value R37 gives register `n`; none for an unmapped number (R38). -/
def regValue (s : State) (n : Nat) : Option Word :=
  if h : n < 6 then some ((readSeq s ⟨n, h⟩).setWidth 32)
  else if h : 0x46 ≤ n ∧ n < 0x51 then some ((s.rspLatch.r[n - 0x46]'(by omega)).setWidth 32)
  else if 0x100 ≤ n ∧ n < 0x200 then some ((readCmdSeq s (BitVec.ofNat 8 (n - 0x100))).setWidth 32)
  else (scalarRegs s).lookup n

end Sys2Proof.Machine
end

