-- ==== Sys2Proof/Machine/Control.lean ====
section
/-! DEFINITION. The control operations (44_control.md): RESET, REG_READ, and the reserved opcodes. -/

namespace Sys2Proof.Machine

/-- RESET (R160): every piece of state takes its reset value (R39). The configuration (R36) and the requester's further
requests are not the block's state and stay. -/
def execReset (s : State) : Result :=
  returnWith .ok {} { State.resetWith s.cfg with requests := s.requests }

/-- REG_READ (R162). -/
def execRegRead (reg : Half) (s : State) : Result :=
  match regValue s reg.toNat with
  | some v => pureReturn { value := v } s
  | none => pureRaise .badReg (reg.setWidth 32) s

/-- A reserved opcode (R74, R164). -/
def execReserved (op : Byte) (s : State) : Result := raiseWith .illegalOp (op.setWidth 32) s

end Sys2Proof.Machine
end

