-- ==== Sys2Proof/Machine/Codec.lean ====
section
/-! DEFINITION. The packet codec (40_packet_codec.md): `decode_header`, `encode_frame`, HDR_DECODE and HDR_ENCODE. -/

namespace Sys2Proof.Machine

/-- `decode_header` of the four header bytes (R80). -/
def decodeHeader (mode : AllOnesMode) (h0 h1 h2 h3 : Byte) : Hdr :=
  let raw := le16 h0 h1
  let bc := raw.extractLsb' 0 15
  { bc := bc
    cont := raw.getLsbD 15
    ch := h2
    seq := h3
    dlen := if 4 ≤ bc.toNat then bc.setWidth 16 - 4#16 else 0#16
    cls := classify mode raw bc h2 h3 }

/-- `encode_frame(c, s, p)` (R83). -/
def encodeFrame (c q : Byte) (p : Bytes) : Bytes := le16Bytes (BitVec.ofNat 16 (p.length + 4)) ++ [c, q] ++ p

/-- HDR_DECODE (R84). Only the first four bytes are read. -/
def execHdrDecode (bytes : Bytes) (s : State) : Result :=
  match bytes with
  | h0 :: h1 :: h2 :: h3 :: _ => pureReturn { hdr := decodeHeader s.cfg.allOnesMode h0 h1 h2 h3 } s
  | short => pureRaise .rxShort (infoOfLen short.length) s

/-- HDR_ENCODE (R85). The channel is checked first. -/
def execHdrEncode (ch seq : Byte) (bytes : Bytes) (s : State) : Result :=
  if 5 < ch.toNat then pureRaise .badChannel (ch.setWidth 32) s
  else if Config.pktCap < bytes.length then pureRaise .oversize (infoOfLen bytes.length) s
  else pureReturn { bytes := encodeFrame ch seq bytes } s

end Sys2Proof.Machine
end

