-- ==== Sys2Proof/Machine/Correlator.lean ====
section
/-! DEFINITION. The command correlator (43_command_correlator.md): CMD_ISSUE and CMD_RESPONSE. -/

namespace Sys2Proof.Machine

/-- The 12-byte command request payload (30_encoding.md R64): id, command sequence, command code, the parameters,
padding. -/
def commandPayload (q cmd : Byte) (params : Bytes) : Bytes :=
  [Config.idCmdReq, q, cmd] ++ params ++ zeros (Config.cmdMaxParams - params.length)

/-- CMD_ISSUE (R140). Both sequences are carried as they stand (R141); the increments wait for TX_COMMIT. -/
def execCmdIssue (cmd : Byte) (params : Bytes) (s : State) : Result :=
  if Config.cmdMaxParams < params.length then raiseWith .tooManyParams (infoOfLen params.length) s
  else
    returnWith .ok
      { bytes := encodeFrame (chanByte Config.chControl) (readSeq s Config.chControl)
          (commandPayload (readCmdSeq s Config.idCmdReq) cmd params) }
      { s with txp := { valid := true, cmd := true, ch := Config.chControl, code := cmd } }

/-- The command-response latch of a 16-byte report (R65, R146). -/
def latchResponse (b : Bytes) : RspLatch where
  valid := true
  reportId := byteAt b 0
  seq := byteAt b 1
  command := byteAt b 2
  commandSeq := byteAt b 3
  responseSeq := byteAt b 4
  r := #v[byteAt b 5, byteAt b 6, byteAt b 7, byteAt b 8, byteAt b 9, byteAt b 10, byteAt b 11, byteAt b 12,
    byteAt b 13, byteAt b 14, byteAt b 15]

/-- The ME calibration latch (R147): set once per cycle by a zero-status response of its command. -/
def latchMe (cmd st : Byte) (now : Word) (s : State) : State :=
  if cmd = s.cfg.cmdMeCalibrate ∧ st = 0#8 ∧ s.meValid = false then { s with meTs := now, meValid := true } else s

/-- The DCD save latch (R148): set once per cycle by a zero-status response of its command. -/
def latchDcd (cmd st : Byte) (now : Word) (s : State) : State :=
  if cmd = s.cfg.cmdSaveDcd ∧ st = 0#8 ∧ s.dcdValid = false then { s with dcdTs := now, dcdValid := true } else s

/-- CMD_RESPONSE (R146). No sequence field is compared (R150). -/
def execCmdResponse (bytes : Bytes) (now : Word) (s : State) : Result :=
  if bytes.length ≠ Config.cmdRespLen then raiseWith .badResponse (infoOfLen bytes.length) s
  else if byteAt bytes 0 ≠ s.cfg.idCmdResp then
    raiseWith .badResponse (BitVec.ofNat 32 bytes.length ||| ((byteAt bytes 0).setWidth 32 <<< 16)) s
  else
    let cmd := byteAt bytes 2
    let st := byteAt bytes 5
    let latched := latchDcd cmd st now (latchMe cmd st now { s with rspLatch := latchResponse bytes })
    if cmd = s.cfg.cmdSaveDcd ∧ st ≠ 0#8 then
      returnWith .calSaveFailed { value := st.setWidth 32, info := st.setWidth 32 } latched
    else returnWith .ok { value := st.setWidth 32 } latched

end Sys2Proof.Machine
end

