-- ==== Sys2Proof/Machine/Sequencer.lean ====
section
/-! DEFINITION. The channel sequencer (41_channel_sequencer.md): TX_FRAME, TX_COMMIT and RX_FRAME. -/

namespace Sys2Proof.Machine

/-- TX_FRAME (R100). The frame carries `SEQ[ch]` as it stands; the increment waits for TX_COMMIT. -/
def execTxFrame (ch : Byte) (bytes : Bytes) (s : State) : Result :=
  match chan? ch with
  | none => raiseWith .badChannel (ch.setWidth 32) s
  | some c =>
    if Config.pktCap < bytes.length then raiseWith .oversize (infoOfLen bytes.length) s
    else returnWith .ok { bytes := encodeFrame ch (readSeq s c) bytes }
      { s with txp := { valid := true, cmd := false, ch := c, code := 0#8 } }

/-- The re-arm of a command cycle (R104, R144): a committed command clears the latch of its code. -/
def rearmLatches (code : Byte) (s : State) : State :=
  { s with meValid := if code = s.cfg.cmdMeCalibrate then false else s.meValid
           dcdValid := if code = s.cfg.cmdSaveDcd then false else s.dcdValid }

/-- The writes a successful send makes (R104): the channel sequence, and for a command frame the command sequence and
the matching calibration latch. -/
def applySend (s : State) : State :=
  let sent := bumpSeq s.txp.ch s
  if s.txp.cmd then rearmLatches s.txp.code (bumpCmdSeq Config.idCmdReq sent) else sent

/-- TX_COMMIT (R104). `TXP` is cleared whenever a frame was pending. -/
def execTxCommit (ok : Bool) (s : State) : Result :=
  if s.txp.valid then returnWith .ok {} { (if ok then applySend s else s) with txp := {} }
  else raiseWith .noPendingTx 0#32 s

/-- RX_FRAME (R108). -/
def execRxFrame (bytes : Bytes) (s : State) : Result :=
  match bytes with
  | h0 :: h1 :: h2 :: h3 :: payload =>
    let h := decodeHeader s.cfg.allOnesMode h0 h1 h2 h3
    match h.cls with
    | .error => returnWith .hdrError { hdr := h, info := h.ch.setWidth 32 } { s with hdr := h, pkt := [] }
    | .empty => returnWith .framing { hdr := h } (mirrorSeq h.ch h.seq { s with hdr := h, pkt := [] })
    | _ =>
      if payload.length < h.dlen.toNat then raiseWith .rxShort (infoOfLen (4 + payload.length)) s
      else returnWith .ok { hdr := h } (mirrorSeq h.ch h.seq { s with hdr := h, pkt := payload.take h.dlen.toNat })
  | short => raiseWith .rxShort (infoOfLen short.length) s

end Sys2Proof.Machine
end

