-- ==== Sys2Proof/Machine/Splitter.lean ====
section
/-! DEFINITION. The report batch splitter (42_batch_splitter.md): LEN_LOOKUP, SPLIT and POP_SLICE. -/

namespace Sys2Proof.Machine

/-- LEN_LOOKUP (R120). A miss is reported by `hit = 0` and is no error. -/
def execLenLookup (id : Byte) (s : State) : Result :=
  match lookupLen s.cfg id with
  | some n => pureReturn { hit := true, len := BitVec.ofNat 8 n } s
  | none => pureReturn { hit := false, len := 0#8 } s

/-- How the splitting loop ends: with the slices in wire order, with a status and its `info`, or not at all (a table
entry of length 0, which no legal configuration has, R132). -/
inductive SplitEnd where
  | slices (l : List Slice)
  | failed (st : Status) (info : Word)
  | endless
deriving DecidableEq, Repr

/-- One slice put before those that follow it on the wire. -/
def SplitEnd.push (e : Slice) : SplitEnd → SplitEnd
  | .slices l => .slices (e :: l)
  | .failed st info => .failed st info
  | .endless => .endless

/-- The loop of SPLIT (R124): `off` is the offset reached, `d` the stack depth reached, `rest` the bytes from `off` on.
`fuel` bounds the passes: one per byte is enough, every entry of a legal table being at least 1 (R132). -/
def splitLoop (c : Config) : (fuel off d : Nat) → (rest : Bytes) → SplitEnd
  | _, _, _, [] => .slices []
  | 0, _, _, _ :: _ => .endless
  | fuel + 1, off, d, id :: tail =>
    match lookupLen c id with
    | none => .failed .unknownReport (BitVec.ofNat 32 off ||| (id.setWidth 32 <<< 16))
    | some n =>
      if (id :: tail).length < n then
        .failed .batchFraming (BitVec.ofNat 32 off ||| (id.setWidth 32 <<< 16) ||| (BitVec.ofNat 32 n <<< 24))
      else if c.stackDepth = some d then .failed .stackOverflow (BitVec.ofNat 32 off)
      else
        (splitLoop c fuel (off + n) (d + 1) ((id :: tail).drop n)).push
          { id := id, len := BitVec.ofNat 8 n, bytes := (id :: tail).take n }

/-- SPLIT (R124): all of the packet's slices are pushed, or none. `PKT` is not consumed (R133). -/
def execSplit (s : State) : Result :=
  match splitLoop s.cfg s.pkt.length 0 s.stk.length s.pkt with
  | .slices l => returnWith .ok { count := BitVec.ofNat 16 l.length } { s with stk := s.stk ++ l }
  | .failed st info => raiseWith st info s
  | .endless => .fault .illegalConfig

/-- POP_SLICE (R128): the entry pushed last is handed out and removed. -/
def execPopSlice (s : State) : Result :=
  match s.stk.getLast? with
  | none => returnWith .ok { valid := false } s
  | some e => returnWith .ok { valid := true, id := e.id, len := e.len, bytes := e.bytes } { s with stk := s.stk.dropLast }

end Sys2Proof.Machine
end

