-- ==== Sys2Proof/Machine/Dispatch.lean ====
section
/-! DEFINITION. One arm per operation of the opcode map (30_encoding.md R73). -/

namespace Sys2Proof.Machine

def exec (i : Instr) (s : State) : Host.Outcome State Fault Refusal :=
  match i with
  | .reset => Sys2Proof.Machine.execReset s
  | .hdrDecode bytes => Sys2Proof.Machine.execHdrDecode bytes s
  | .hdrEncode ch seq bytes => Sys2Proof.Machine.execHdrEncode ch seq bytes s
  | .txFrame ch bytes => Sys2Proof.Machine.execTxFrame ch bytes s
  | .txCommit ok => Sys2Proof.Machine.execTxCommit ok s
  | .rxFrame bytes => Sys2Proof.Machine.execRxFrame bytes s
  | .lenLookup id => Sys2Proof.Machine.execLenLookup id s
  | .split => Sys2Proof.Machine.execSplit s
  | .popSlice => Sys2Proof.Machine.execPopSlice s
  | .cmdIssue cmd params => Sys2Proof.Machine.execCmdIssue cmd params s
  | .cmdResponse bytes now => Sys2Proof.Machine.execCmdResponse bytes now s
  | .regRead reg => Sys2Proof.Machine.execRegRead reg s
  | .reserved op => Sys2Proof.Machine.execReserved op s

end Sys2Proof.Machine
end

