-- ==== Sys2Proof/Machine/Step.lean ====
section
/-! DEFINITION. One step: one request, taken whole, in the order the requester issues them (00_scope.md R6,
20_memory.md R58). -/

namespace Sys2Proof.Machine

/-- One atomic operation (R6). A configuration that is not legal is refused before the first operation (R9). With no
request the block is idle and keeps all state (60_exceptions.md R181). -/
def step (s : State) : Host.Outcome State Fault Refusal :=
  if Legal s.cfg then
    match s.requests with
    | [] => .next s
    | r :: rest => exec (decode r) { s with requests := rest }
  else .fault .illegalConfig

/-- The requester issues, as the very next request, the table word `w` with all its operand fields 0 or empty. -/
def State.withFetchWord (s : State) (nbits w : Nat) : State :=
  match tableRequest nbits w with
  | some r => { s with requests := r :: s.requests }
  | none => s

end Sys2Proof.Machine
end

