-- ==== Sys2Proof/Machine/Requester.lean ====
section
/-! DEFINITION. The requester's pseudo-operations SEND, CMD, DRAIN and RECEIVE (30_encoding.md R76). They are sequences
of operations the requester issues, not opcodes: SEND and CMD are fixed sequences of requests, DRAIN and RECEIVE choose
their next operation by the response to the last one, so they are given as runs of the operations. -/

namespace Sys2Proof.Machine

/-- `SEND ch=c, bytes=p`, where `ok` says whether the requester's bus write of the frame succeeded. -/
def sendOps (ch : Byte) (p : Bytes) (ok : Bool) : List Instr := [.txFrame ch p, .txCommit ok]

/-- `CMD cmd=k, params=q`, where `ok` says whether the requester's bus write of the frame succeeded. -/
def cmdOps (cmd : Byte) (params : Bytes) (ok : Bool) : List Instr := [.cmdIssue cmd params, .txCommit ok]

/-- The operations of a list one after another; the response of each, and the state they leave. Ends early where the
machine stops. -/
def runOps : List Instr → State → List Response × State
  | [], s => ([], s)
  | i :: rest, s =>
    match exec i s with
    | .next t => (t.rsp :: (runOps rest t).1, (runOps rest t).2)
    | .fault _ => ([], s)
    | .refused _ => ([], s)

/-- POP_SLICE repeated until the response has `valid = 0`, at most `fuel` times: the slices' responses, and the state. -/
def drainLoop : Nat → State → List Response × State
  | 0, s => ([], s)
  | fuel + 1, s =>
    match exec .popSlice s with
    | .next t => if t.rsp.valid then (t.rsp :: (drainLoop fuel t).1, (drainLoop fuel t).2) else ([], t)
    | .fault _ => ([], s)
    | .refused _ => ([], s)

/-- `DRAIN`. One pass more than the stack has entries is enough to meet `valid = 0`. -/
def drain (s : State) : List Response × State := drainLoop (s.stk.length + 1) s

/-- `RECEIVE bytes=f`: RX_FRAME, then, if the status is OK, SPLIT and DRAIN. The responses in order, and the state. -/
def receive (f : Bytes) (s : State) : List Response × State :=
  let (rx, t) := runOps [.rxFrame f] s
  if t.rsp.status = .ok then
    let (sp, u) := runOps [.split] t
    let (popped, v) := drain u
    (rx ++ sp ++ popped, v)
  else (rx, t)

end Sys2Proof.Machine
end

