-- ==== Sys2Proof/Safety.lean ====
section
/-! DEFINITION. The terms claims are stated in: which operations are pure (00_scope.md R14), what an aborted operation
leaves (R13, 60_exceptions.md R172), and the invariant of the block's state (10_state.md). -/

namespace Sys2Proof

/-- The pure operations (R14): they never write any state. -/
def Instr.isPure : Instr → Bool
  | .reset => false
  | .hdrDecode _ => true
  | .hdrEncode _ _ _ => true
  | .txFrame _ _ => false
  | .txCommit _ => false
  | .rxFrame _ => false
  | .lenLookup _ => true
  | .split => false
  | .popSlice => false
  | .cmdIssue _ _ => false
  | .cmdResponse _ _ => false
  | .regRead _ => true
  | .reserved _ => false

namespace Machine

/-- The state after a stateful operation aborts with status `st` of code `code` (R13, R172): the response, the error
record, and nothing else. -/
def abortedWith (st : Status) (code : Nat) (info : Word) (s : State) : State :=
  { s with rsp := { status := st, info := info }
           errSeen := s.errSeen ||| BitVec.ofNat 16 (2 ^ code)
           lastErr := BitVec.ofNat 8 code }

/-- The state after a pure operation aborts with status `st` (R13, R14): the response, and nothing else. -/
def rejectedWith (st : Status) (info : Word) (s : State) : State :=
  { s with rsp := { status := st, info := info } }

/-- Two requests of one opcode agree on every field that opcode reads (R70). -/
def SameReadFields (a b : Request) : Prop :=
  a.op = b.op ∧
  (a.op = 0x03#8 ∨ a.op = 0x04#8 → a.ch = b.ch) ∧
  (a.op = 0x03#8 → a.seq = b.seq) ∧
  (a.op = 0x02#8 ∨ a.op = 0x03#8 ∨ a.op = 0x04#8 ∨ a.op = 0x06#8 ∨ a.op = 0x0B#8 → a.bytes = b.bytes) ∧
  (a.op = 0x05#8 → a.ok = b.ok) ∧
  (a.op = 0x07#8 → a.id = b.id) ∧
  (a.op = 0x0A#8 → a.cmd = b.cmd ∧ a.params = b.params) ∧
  (a.op = 0x0B#8 → a.now = b.now) ∧
  (a.op = 0x0C#8 → a.reg = b.reg)

/-- `bytes` is one whole report cut as slice `e` under configuration `c`: its first byte is its id, and its length is
the table's (R29, R66). -/
def GoodSlice (c : Config) (e : Slice) : Prop :=
  e.bytes.head? = some e.id ∧ lookupLen c e.id = some e.bytes.length ∧ e.len.toNat = e.bytes.length

/-- The concatenation of slices, in the order listed (R130). -/
def joined (l : List Slice) : Bytes := l.flatMap Slice.bytes

/-- `n` more slices fit on the stack (R28). -/
def HasRoom (s : State) (n : Nat) : Prop := ∀ d, s.cfg.stackDepth = some d → s.stk.length + n ≤ d

/-- What holds of the header latch (R25, R81, R82): `dlen` is the clamped data length, the classes VALID and EMPTY have
a channel that exists, EMPTY is the zero count, and NONE is the reset value. -/
structure HdrWf (h : Hdr) : Prop where
  dlen  : h.dlen.toNat = h.bc.toNat - 4
  none  : h.cls = .none → h = {}
  empty : h.cls = .empty → h.ch.toNat ≤ 5 ∧ h.bc = 0#15
  valid : h.cls = .valid → h.ch.toNat ≤ 5 ∧ h.bc ≠ 0#15

/-- What holds of `TXP` (R30): it is clear while nothing is pending, a command frame is on `CH_CONTROL`, and only a
command frame has a code. -/
structure TxpWf (t : Txp) : Prop where
  idle  : t.valid = false → t = {}
  cmd   : t.cmd = true → t.ch = 2
  plain : t.cmd = false → t.code = 0#8

/-- What holds of the error record (R34, R35, R172): the bits of no status and of BAD_REG, which only the pure REG_READ
raises, are never set, and `LAST_ERR` names a bit that is set. -/
structure ErrWf (seen : Half) (last : Byte) : Prop where
  never : seen.getLsbD 0 = false ∧ seen.getLsbD 13 = false ∧ seen.getLsbD 15 = false
  clear : last = 0#8 ↔ seen = 0#16
  last  : last ≠ 0#8 → seen.getLsbD last.toNat = true

/-- The invariant of the block: every run from power-on under a legal configuration keeps to it. -/
structure Inv (s : State) : Prop where
  legal  : Legal s.cfg
  hdr    : HdrWf s.hdr
  pktLen : s.pkt.length ≤ 0x7FFB
  pktVal : s.hdr.cls = .valid → s.pkt.length = s.hdr.dlen.toNat
  pktNil : s.hdr.cls ≠ .valid → s.pkt = []
  slices : ∀ e ∈ s.stk, GoodSlice s.cfg e
  depth  : HasRoom s 0
  txp    : TxpWf s.txp
  cmdSeq : ∀ id : Byte, id ≠ 0xF2#8 → readCmdSeq s id = 0#8
  rsp    : (s.rspLatch.valid = false → s.rspLatch = {}) ∧ (s.rspLatch.valid = true → s.rspLatch.reportId = s.cfg.idCmdResp)
  err    : ErrWf s.errSeen s.lastErr

end Machine

end Sys2Proof
end

