-- ==== Sys2Proof/Certificates/Slice0/Obligations.lean ====
section
/-! DEFINITION. The statements for the provers. Each docstring names the rule of the spec it comes from and, where that
rule rests on a decision of the spec itself (92_eei_decisions.md), the decision. -/

open Sys2Proof Sys2Proof.Machine

/-! ### Encoding -/

/-- R70, R72, R73, R75 (decision D4): no operand is lost between an instruction, its request and the decoder. -/
def Obligations.DecodeOfEncodeIsIdentity : Prop :=
  ∀ i : Instr, i.wf = true → decode (encode i) = i

/-- R70 (decision D4): "A field an operation does not read has no effect on it". -/
def Obligations.UnreadFieldsHaveNoEffect : Prop :=
  ∀ a b : Request, SameReadFields a b → decode a = decode b

/-- R73, R75: a request with its unread fields at their defaults is the one the encoder builds. -/
def Obligations.EncodeOfDecodeKeepsReadFields : Prop :=
  ∀ r : Request, (decode r).wf = true ∧ SameReadFields r (encode (decode r))

/-- R74 (decision D33): the table's rows cover each opcode exactly once, and with the decoder's own mnemonic. -/
def Obligations.OpcodeRowsCoverEachValueOnce : Prop :=
  ∀ r : Request, (opcodeRows.filter (fun row => row.covers r.op)).map OpRow.mnemonic = [(decode r).mnemonic]

/-- R73: the opcodes of one operation of each sub-block, and a reserved one, written out. -/
def Obligations.SpelledRequestsDecode : Prop :=
  decode { op := 0b00000001#8 } = .reset ∧
  decode { op := 0b00000010#8, bytes := [0x14#8, 0x00#8, 0x02#8, 0x05#8] } = .hdrDecode [0x14#8, 0x00#8, 0x02#8, 0x05#8] ∧
  decode { op := 0b00000100#8, ch := 2#8, bytes := [0xF9#8, 0x00#8] } = .txFrame 2#8 [0xF9#8, 0x00#8] ∧
  decode { op := 0b00000111#8, id := 0x11#8 } = .lenLookup 0x11#8 ∧
  decode { op := 0b00001010#8, cmd := 7#8, params := [1#8] } = .cmdIssue 7#8 [1#8] ∧
  decode { op := 0b00001100#8, reg := 0x01F2#16 } = .regRead 0x01F2#16 ∧
  decode { op := 0b00001101#8 } = .reserved 0x0D#8

/-! ### The step -/

/-- R6, R58: a step is the decoded request's operation on the state with that request taken. The queue of requests is
the model's own field (notes/assumptions/2.md). -/
def Obligations.StepRunsTheNextRequest : Prop :=
  ∀ (s : State) (r : Request) (rest : List Request), Legal s.cfg → s.requests = r :: rest →
    step s = exec (decode r) { s with requests := rest }

/-- R181 (decision D30): "Between operations it is idle and keeps all state". -/
def Obligations.IdleStepKeepsAllState : Prop :=
  ∀ s : State, Legal s.cfg → s.requests = [] → step s = .next s

/-- R9 (decisions D17, D32): a configuration that breaks one of (a) to (f) is refused before the first operation. -/
def Obligations.IllegalConfigurationIsRefused : Prop :=
  ∀ s : State,
    ((∃ id, lookupLen s.cfg id = some 0) ∨ lookupLen s.cfg s.cfg.idCmdResp ≠ some 16 ∨ s.cfg.idCmdResp.toNat < 0xF0 ∨
      s.cfg.cmdMeCalibrate = s.cfg.cmdSaveDcd ∨ s.cfg.idCmdResp = 0xF2#8 ∨
      ∃ id n, lookupLen s.cfg id = some n ∧ s.cfg.reportLenMax < n) →
    step s = .fault .illegalConfig

/-- R173: no status stops the block or blocks later operations: from any state, under a legal configuration, it goes on
for as long as it is asked to, taking one request with every step while there is one. The queue of requests is the
model's own field (notes/assumptions/2.md). -/
def Obligations.BlockGoesOnAfterAnyStatus : Prop :=
  ∀ (n : Nat) (s : State), Legal s.cfg → ∃ t, Host.Core.run core n s = .next t ∧ t.requests = s.requests.drop n

/-- R6: every operation is total under a legal configuration; reserved opcodes included. -/
def Obligations.EveryOperationResponds : Prop :=
  ∀ (i : Instr) (s : State), Legal s.cfg → ∃ t, exec i s = .next t

/-- R36: no operation writes the configuration and reset does not change it. -/
def Obligations.ConfigurationNeverChanges : Prop :=
  ∀ (s t : State), (step s = .next t → t.cfg = s.cfg) ∧ ∀ i : Instr, exec i s = .next t → t.cfg = s.cfg

/-! ### Reset and the invariant -/

/-- R39, R160, R161, R190 (decisions D5, D6, D7, D13, D15, D18, D25, D26, D28, D35): RESET leaves every piece of state
at its reset value, and so does power-on; the configuration and the requester's further requests stay. -/
def Obligations.ResetLeavesTheResetState : Prop :=
  ∀ s : State, ∃ t, exec .reset s = .next t ∧ t = { State.resetWith s.cfg with requests := s.requests } ∧
    (∀ c : Channel, t.seq[c] = 0#8) ∧ (∀ id : Byte, readCmdSeq t id = 0#8) ∧
    t.hdr = { bc := 0#15, cont := false, ch := 0#8, seq := 0#8, dlen := 0#16, cls := .none } ∧
    t.pkt.length = 0 ∧ t.stk.length = 0 ∧ t.txp = { valid := false, cmd := false, ch := 0, code := 0#8 } ∧
    t.meValid = false ∧ t.dcdValid = false ∧ t.meTs = 0#32 ∧ t.dcdTs = 0#32 ∧
    t.rspLatch.valid = false ∧ t.rspLatch.reportId = 0#8 ∧ t.rspLatch.seq = 0#8 ∧ t.rspLatch.command = 0#8 ∧
    t.rspLatch.commandSeq = 0#8 ∧ t.rspLatch.responseSeq = 0#8 ∧ (∀ k : Fin 11, t.rspLatch.r[k] = 0#8) ∧
    t.errSeen = 0#16 ∧ t.lastErr = 0#8 ∧ t.rsp.status = .ok ∧ t.cfg = s.cfg

/-- The invariant holds at power-on under every legal configuration, and of the model's reset state. -/
def Obligations.InvariantHoldsAtReset : Prop :=
  (∀ c : Config, Legal c → Inv (State.resetWith c)) ∧ Inv State.reset

/-- The invariant (R25, R26, R28, R29, R30, R33, R34, R35; the widths and ranges of 10_state.md) is kept by every step
from every state that meets it. -/
def Obligations.StepKeepsInvariant : Prop :=
  ∀ s t : State, Inv s → step s = .next t → Inv t

/-! ### Packet codec -/

/-- R80: every field of a decoded header, by arithmetic on the four bytes. -/
def Obligations.DecodeHeaderSplitsTheCountWord : Prop :=
  ∀ (mode : AllOnesMode) (h0 h1 h2 h3 : Byte),
    let raw := h0.toNat + 256 * h1.toNat
    let h := decodeHeader mode h0 h1 h2 h3
    h.bc.toNat = raw % 0x8000 ∧ h.cont = decide (0x8000 ≤ raw) ∧ h.ch = h2 ∧ h.seq = h3 ∧
    h.dlen.toNat = (if 4 ≤ raw % 0x8000 then raw % 0x8000 - 4 else 0) ∧
    h.cls = classify mode (BitVec.ofNat 16 raw) h.bc h2 h3

/-- R82 (decisions D8, D9, D10): the class of a header, by its bytes. -/
def Obligations.HeaderClassByItsBytes : Prop :=
  ∀ (mode : AllOnesMode) (h0 h1 h2 h3 : Byte),
    (decodeHeader mode h0 h1 h2 h3).cls =
      if 5 < h2.toNat then .error
      else if mode = .raw ∧ h0 = 0xFF#8 ∧ h1 = 0xFF#8 ∧ h3 = 0xFF#8 then .error
      else if h0.toNat + 256 * (h1.toNat % 128) = 0 then .empty
      else .valid

/-- R84, R87 (decision D34): HDR_DECODE answers OK for every four header bytes and reads no more of them; fewer are
RX_SHORT. Nothing but the response is written (R14). -/
def Obligations.HdrDecodeResult : Prop :=
  ∀ s : State,
    (∀ (h0 h1 h2 h3 : Byte) (more : Bytes), exec (.hdrDecode (h0 :: h1 :: h2 :: h3 :: more)) s =
      .next { s with rsp := { status := .ok, hdr := decodeHeader s.cfg.allOnesMode h0 h1 h2 h3 } }) ∧
    ∀ b : Bytes, b.length < 4 → exec (.hdrDecode b) s = .next (rejectedWith .rxShort (BitVec.ofNat 32 b.length) s)

/-- R85, R83 (decision D12): HDR_ENCODE, its frame byte by byte, and its two refusals in their order. -/
def Obligations.HdrEncodeResult : Prop :=
  ∀ (ch q : Byte) (p : Bytes) (s : State),
    (ch.toNat ≤ 5 → p.length ≤ 0x7FFB → exec (.hdrEncode ch q p) s = .next { s with rsp := { bytes :=
      [BitVec.ofNat 8 ((p.length + 4) % 256), BitVec.ofNat 8 ((p.length + 4) / 256), ch, q] ++ p } }) ∧
    (5 < ch.toNat → exec (.hdrEncode ch q p) s = .next (rejectedWith .badChannel (BitVec.ofNat 32 ch.toNat) s)) ∧
    (ch.toNat ≤ 5 → 0x7FFB < p.length → ∃ info : Word, (p.length < 2 ^ 32 → info.toNat = p.length) ∧
      exec (.hdrEncode ch q p) s = .next (rejectedWith .oversize info s))

/-- R88: encoding and then decoding gives back the channel, the sequence, the length and the payload, class VALID. -/
def Obligations.EncodedFrameDecodesBack : Prop :=
  ∀ (ch q : Byte) (p : Bytes) (s : State), ch.toNat ≤ 5 → p.length ≤ 0x7FFB →
    ∃ t u, exec (.hdrEncode ch q p) s = .next t ∧ exec (.hdrDecode t.rsp.bytes) t = .next u ∧
      u.rsp.status = .ok ∧
      u.rsp.hdr = { bc := BitVec.ofNat 15 (p.length + 4), cont := false, ch := ch, seq := q,
                    dlen := BitVec.ofNat 16 p.length, cls := .valid } ∧
      t.rsp.bytes.drop 4 = p

/-- R86, R82: flipping the continuation flag of a received frame changes `cont` and nothing else, but for the all-ones
count word that `ALLONES_MODE` = RAW reads before masking (R82; notes/assumptions/6.md). -/
def Obligations.ContinuationFlagIsIgnored : Prop :=
  ∀ (s t : State) (h0 h1 h2 h3 : Byte) (p : Bytes),
    ¬(s.cfg.allOnesMode = .raw ∧ h0 = 0xFF#8 ∧ h1 ||| 0x80#8 = 0xFF#8 ∧ h2.toNat ≤ 5 ∧ h3 = 0xFF#8) →
    exec (.rxFrame (h0 :: h1 :: h2 :: h3 :: p)) s = .next t →
    exec (.rxFrame (h0 :: (h1 ^^^ 0x80#8) :: h2 :: h3 :: p)) s =
      .next (if t.rsp.status = .rxShort then t
        else { t with hdr := { t.hdr with cont := !t.hdr.cont }
                      rsp := { t.rsp with hdr := { t.rsp.hdr with cont := !t.rsp.hdr.cont } } })

/-! ### Channel sequencer -/

/-- R100 (decisions D12, D13): TX_FRAME writes `TXP` only; its frame carries the counter as it stands. -/
def Obligations.TxFrameResult : Prop :=
  ∀ (ch : Byte) (p : Bytes) (s : State),
    (∀ c : Channel, c.val = ch.toNat → p.length ≤ 0x7FFB → exec (.txFrame ch p) s = .next { s with
      txp := { valid := true, cmd := false, ch := c, code := 0#8 }
      rsp := { bytes := [BitVec.ofNat 8 ((p.length + 4) % 256), BitVec.ofNat 8 ((p.length + 4) / 256), ch, s.seq[c]] ++ p } }) ∧
    (5 < ch.toNat → exec (.txFrame ch p) s = .next (abortedWith .badChannel 0x06 (BitVec.ofNat 32 ch.toNat) s)) ∧
    (ch.toNat ≤ 5 → 0x7FFB < p.length → ∃ info : Word, (p.length < 2 ^ 32 → info.toNat = p.length) ∧
      exec (.txFrame ch p) s = .next (abortedWith .oversize 0x07 info s))

/-- R104, R142, R144 (decisions D13, D23, D25): TX_COMMIT of a plain frame, of a command frame, of a failed write, and
with nothing pending. -/
def Obligations.TxCommitResult : Prop :=
  ∀ s : State,
    (s.txp.valid = true → s.txp.cmd = false → exec (.txCommit true) s = .next { s with
      seq := s.seq.set s.txp.ch (s.seq[s.txp.ch] + 1#8), txp := {}, rsp := {} }) ∧
    (s.txp.valid = true → s.txp.cmd = true → exec (.txCommit true) s = .next { s with
      seq := s.seq.set s.txp.ch (s.seq[s.txp.ch] + 1#8)
      cmdSeq := s.cmdSeq.set 0xF2 (s.cmdSeq[0xF2] + 1#8)
      meValid := s.meValid && !decide (s.txp.code = s.cfg.cmdMeCalibrate)
      dcdValid := s.dcdValid && !decide (s.txp.code = s.cfg.cmdSaveDcd)
      txp := {}, rsp := {} }) ∧
    (s.txp.valid = true → exec (.txCommit false) s = .next { s with txp := {}, rsp := {} }) ∧
    (s.txp.valid = false → ∀ ok, exec (.txCommit ok) s = .next (abortedWith .noPendingTx 0x0C 0#32 s))

/-- R108 (decisions D11, D15): RX_FRAME, one clause for each class of header and for each way a frame is short. -/
def Obligations.RxFrameResult : Prop :=
  ∀ s : State,
    (∀ b : Bytes, b.length < 4 → exec (.rxFrame b) s = .next (abortedWith .rxShort 0x09 (BitVec.ofNat 32 b.length) s)) ∧
    ∀ (h0 h1 h2 h3 : Byte) (p : Bytes) (h : Hdr), h = decodeHeader s.cfg.allOnesMode h0 h1 h2 h3 →
      (h.cls = .error → exec (.rxFrame (h0 :: h1 :: h2 :: h3 :: p)) s = .next { s with
        hdr := h, pkt := [], errSeen := s.errSeen ||| 0x0002#16, lastErr := 0x01#8
        rsp := { status := .hdrError, hdr := h, info := BitVec.ofNat 32 h2.toNat } }) ∧
      (h.cls = .empty → ∀ c : Channel, c.val = h2.toNat → exec (.rxFrame (h0 :: h1 :: h2 :: h3 :: p)) s = .next { s with
        hdr := h, pkt := [], seq := s.seq.set c h3, errSeen := s.errSeen ||| 0x0004#16, lastErr := 0x02#8
        rsp := { status := .framing, hdr := h } }) ∧
      (h.cls = .valid → p.length < h.dlen.toNat → exec (.rxFrame (h0 :: h1 :: h2 :: h3 :: p)) s =
        .next (abortedWith .rxShort 0x09 (BitVec.ofNat 32 (p.length + 4)) s)) ∧
      (h.cls = .valid → h.dlen.toNat ≤ p.length → ∀ c : Channel, c.val = h2.toNat →
        exec (.rxFrame (h0 :: h1 :: h2 :: h3 :: p)) s = .next { s with
          hdr := h, pkt := p.take h.dlen.toNat, seq := s.seq.set c h3, rsp := { status := .ok, hdr := h } })

/-- R109, R82: the received sequence replaces the stored one whatever that was, and nothing of the answer depends on
the state but on the configuration. -/
def Obligations.ReceivedSequenceIsMirroredUnchecked : Prop :=
  ∀ (f : Bytes) (s s' : State), s.cfg = s'.cfg →
    ∃ t t', exec (.rxFrame f) s = .next t ∧ exec (.rxFrame f) s' = .next t' ∧ t.rsp = t'.rsp ∧
      (t.rsp.status = .ok ∨ t.rsp.status = .framing →
        ∃ c : Channel, c.val = t.rsp.hdr.ch.toNat ∧ t.seq = s.seq.set c t.rsp.hdr.seq ∧ t'.seq = s'.seq.set c t.rsp.hdr.seq) ∧
      (t.rsp.status ≠ .ok → t.rsp.status ≠ .framing → t.seq = s.seq)

/-- R110, R23: a frame accepted on a channel gives the next frame sent there its sequence. -/
def Obligations.NextFrameCarriesTheMirroredSequence : Prop :=
  ∀ (f p : Bytes) (s t : State), exec (.rxFrame f) s = .next t → t.rsp.status = .ok → p.length ≤ 0x7FFB →
    ∃ u, exec (.txFrame t.rsp.hdr.ch p) t = .next u ∧ u.rsp.status = .ok ∧ u.rsp.bytes[3]? = some t.rsp.hdr.seq

/-- R102 (decision D13): a frame built over a pending one leaves no trace of it. -/
def Obligations.AbandonedFrameLeavesNoTrace : Prop :=
  ∀ (a b : Instr) (s t u : State),
    ((∃ ch p, a = .txFrame ch p) ∨ ∃ k q, a = .cmdIssue k q) → ((∃ ch p, b = .txFrame ch p) ∨ ∃ k q, b = .cmdIssue k q) →
    exec a s = .next t → t.rsp.status = .ok → exec b s = .next u → u.rsp.status = .ok → exec b t = .next u

/-- R106 (decision D14): the commit increments the counter's current value, a value received in between included. -/
def Obligations.CommitIncrementsTheCurrentValue : Prop :=
  ∀ (ch : Byte) (p f : Bytes) (s t u : State), exec (.txFrame ch p) s = .next t → t.rsp.status = .ok →
    exec (.rxFrame f) t = .next u → u.rsp.status = .ok → u.rsp.hdr.ch = ch →
    ∃ v, exec (.txCommit true) u = .next v ∧ v.seq = u.seq.set t.txp.ch (u.rsp.hdr.seq + 1#8) ∧ v.txp.valid = false

/-- R105, R101: 256 sends on one channel bring its counter back; the frames carry the 256 values in order. -/
def Obligations.CounterWrapsAfter256Sends : Prop :=
  ∀ (c : Channel) (ps : List Bytes) (s : State), ps.length = 256 → (∀ p ∈ ps, p.length ≤ 0x7FFB) →
    let run := runOps (ps.flatMap fun p => sendOps (BitVec.ofNat 8 c.val) p true) s
    run.2 = { s with txp := {}, rsp := {} } ∧ run.1.length = 512 ∧ (∀ r ∈ run.1, r.status = .ok) ∧
    ∀ n, n < 256 → run.1[2 * n]?.bind (fun r => r.bytes[3]?) = some (s.seq[c] + BitVec.ofNat 8 n)

/-! ### Report batch splitter -/

/-- R120, R66 (decision D17): LEN_LOOKUP reads the sub-table of the id's range; a miss is no error. -/
def Obligations.LenLookupResult : Prop :=
  ∀ (id : Byte) (s : State), Legal s.cfg →
    (∀ row, row ∈ s.cfg.sensorLen ∨ row ∈ s.cfg.controlLen → row.id = id → exec (.lenLookup id) s =
      .next { s with rsp := { hit := true, len := BitVec.ofNat 8 row.len } }) ∧
    ((∀ row, row ∈ s.cfg.sensorLen ∨ row ∈ s.cfg.controlLen → row.id ≠ id) →
      exec (.lenLookup id) s = .next { s with rsp := { hit := false, len := 0#8 } })

/-- R124, R125: a packet that is a concatenation of whole reports, with room on the stack, is cut into exactly those
slices, pushed in wire order above what the stack holds (R133). -/
def Obligations.SplitPushesWholeReports : Prop :=
  ∀ (s : State) (l : List Slice), (∀ e ∈ l, GoodSlice s.cfg e) → s.pkt = joined l → HasRoom s l.length →
    exec .split s = .next { s with stk := s.stk ++ l, rsp := { count := BitVec.ofNat 16 l.length } }

/-- R124, R134, R176 (decisions D17, D18): the first report that fails decides; nothing of the batch is pushed. -/
def Obligations.SplitAbortsWholly : Prop :=
  ∀ (s : State) (l : List Slice) (id : Byte) (tail : Bytes), (∀ e ∈ l, GoodSlice s.cfg e) →
    s.pkt = joined l ++ id :: tail → s.pkt.length ≤ 0x7FFB → HasRoom s l.length →
    (lookupLen s.cfg id = none → exec .split s = .next
      (abortedWith .unknownReport 0x04 (BitVec.ofNat 32 ((joined l).length + 65536 * id.toNat)) s)) ∧
    (∀ n, lookupLen s.cfg id = some n → tail.length + 1 < n → n ≤ 255 → exec .split s = .next
      (abortedWith .batchFraming 0x03 (BitVec.ofNat 32 ((joined l).length + 65536 * id.toNat + 16777216 * n)) s)) ∧
    (∀ n, lookupLen s.cfg id = some n → n ≤ tail.length + 1 → s.cfg.stackDepth = some (s.stk.length + l.length) →
      exec .split s = .next (abortedWith .stackOverflow 0x0A (BitVec.ofNat 32 (joined l).length) s))

/-- R130: the slices a SPLIT pushes are whole reports of the table's lengths and concatenate to the packet. -/
def Obligations.SlicesPartitionTheBatch : Prop :=
  ∀ s t : State, Legal s.cfg → exec .split s = .next t → t.rsp.status = .ok →
    ∃ l, t.stk = s.stk ++ l ∧ joined l = s.pkt ∧ (∀ e ∈ l, GoodSlice s.cfg e) ∧ t.rsp.count = BitVec.ofNat 16 l.length

/-- R131, R133 (decision D20): draining the stack after a SPLIT hands out that batch's slices last wire report first, then the older
ones, and leaves the stack empty. -/
def Obligations.DispatchOrderIsReversedWireOrder : Prop :=
  ∀ s t : State, Legal s.cfg → exec .split s = .next t → t.rsp.status = .ok →
    ∃ l, joined l = s.pkt ∧ (∀ e ∈ l, GoodSlice s.cfg e) ∧
      (drain t).1 = (l.reverse ++ s.stk.reverse).map
        (fun e => ({ valid := true, id := e.id, len := e.len, bytes := e.bytes } : Response)) ∧
      (drain t).2 = { t with stk := [], rsp := {} }

/-- R128 (decision D21): POP_SLICE hands out the entry pushed last; on an empty stack it changes nothing. -/
def Obligations.PopSliceResult : Prop :=
  ∀ s : State,
    (∀ l e, s.stk = l ++ [e] → exec .popSlice s = .next { s with
      stk := l, rsp := { valid := true, id := e.id, len := e.len, bytes := e.bytes } }) ∧
    (s.stk = [] → exec .popSlice s = .next { s with rsp := { status := .ok, valid := false } })

/-- R76 (decision D37): RECEIVE of a packet of whole reports answers RX_FRAME, SPLIT and each slice, last wire report
first, then the older ones; a frame that is not accepted is only answered. -/
def Obligations.ReceiveHandsOutTheBatch : Prop :=
  ∀ (f : Bytes) (s t : State), exec (.rxFrame f) s = .next t →
    (t.rsp.status ≠ .ok → receive f s = ([t.rsp], t)) ∧
    ∀ l, t.rsp.status = .ok → (∀ e ∈ l, GoodSlice s.cfg e) → t.pkt = joined l → HasRoom s l.length →
      receive f s = (t.rsp :: { count := BitVec.ofNat 16 l.length } :: (l.reverse ++ s.stk.reverse).map
        (fun e => ({ valid := true, id := e.id, len := e.len, bytes := e.bytes } : Response)), { t with stk := [], rsp := {} })

/-- R133 (decision D20): SPLIT does not consume the packet; a second SPLIT pushes the same slices again. -/
def Obligations.SecondSplitPushesTheSameSlices : Prop :=
  ∀ s t : State, Legal s.cfg → exec .split s = .next t → t.rsp.status = .ok →
    HasRoom t (t.stk.length - s.stk.length) →
    ∃ l u, t.stk = s.stk ++ l ∧ exec .split t = .next u ∧ u = { t with stk := s.stk ++ l ++ l }

/-! ### Command correlator -/

/-- R140, R64 (decisions D13, D22, D31): CMD_ISSUE, its sixteen bytes, and its refusal. -/
def Obligations.CmdIssueResult : Prop :=
  ∀ (k : Byte) (q : Bytes) (s : State),
    (q.length ≤ 9 → exec (.cmdIssue k q) s = .next { s with
      txp := { valid := true, cmd := true, ch := 2, code := k }
      rsp := { bytes := [0x10#8, 0x00#8, 0x02#8, s.seq[2], 0xF2#8, s.cmdSeq[0xF2], k] ++ q ++ List.replicate (9 - q.length) 0x00#8 } }) ∧
    (9 < q.length → ∃ info : Word, (q.length < 2 ^ 32 → info.toNat = q.length) ∧
      exec (.cmdIssue k q) s = .next (abortedWith .tooManyParams 0x08 info s))

/-- R141, R64 (decisions D22, D31): a command request carries the channel sequence in header byte 3 and the command sequence
in payload byte 1, and neither counter's increment depends on the other. That the frame is always 16 bytes is D22, that
its channel sequence is `SEQ[2]` is D31. -/
def Obligations.CommandCarriesTwoIndependentSequences : Prop :=
  (∀ (k : Byte) (q : Bytes) (s t : State), exec (.cmdIssue k q) s = .next t → t.rsp.status = .ok →
    t.rsp.bytes.length = 16 ∧ t.rsp.bytes[3]? = some s.seq[2] ∧ t.rsp.bytes[4 + 1]? = some s.cmdSeq[0xF2]) ∧
  ∀ (s t : State) (ok : Bool) (seq' : Vector Byte 6) (cmdSeq' : Vector Byte 256), exec (.txCommit ok) s = .next t →
    (∃ u, exec (.txCommit ok) { s with cmdSeq := cmdSeq' } = .next u ∧ u.seq = t.seq) ∧
    ∃ u, exec (.txCommit ok) { s with seq := seq' } = .next u ∧ u.cmdSeq = t.cmdSeq

/-- R142, R24 (decisions D7, D23): but for RESET, only TX_COMMIT ok=1 of a command frame writes `CMDSEQ`, and only its
entry 0xF2. -/
def Obligations.CommandSequenceHasOneWriter : Prop :=
  ∀ (i : Instr) (s t : State), exec i s = .next t → i ≠ .reset →
    t.cmdSeq = if i = .txCommit true ∧ s.txp.valid = true ∧ s.txp.cmd = true
      then s.cmdSeq.set 0xF2 (s.cmdSeq[0xF2] + 1#8) else s.cmdSeq

/-- R146, R65 (decisions D25, D26): an accepted response is latched whole, whatever its command and status, and its
calibration effects are those of R147 and R148; a DCD-save response with a non-zero status is CAL_SAVE_FAILED. -/
def Obligations.CmdResponseResult : Prop :=
  ∀ (s : State) (now : Word) (b1 k b3 b4 st r1 r2 r3 r4 r5 r6 r7 r8 r9 r10 : Byte) (failed : Bool), Legal s.cfg →
    failed = (decide (k = s.cfg.cmdSaveDcd) && decide (st ≠ 0#8)) →
    exec (.cmdResponse [s.cfg.idCmdResp, b1, k, b3, b4, st, r1, r2, r3, r4, r5, r6, r7, r8, r9, r10] now) s = .next { s with
      rspLatch := { valid := true, reportId := s.cfg.idCmdResp, seq := b1, command := k, commandSeq := b3,
                    responseSeq := b4, r := #v[st, r1, r2, r3, r4, r5, r6, r7, r8, r9, r10] }
      meValid := s.meValid || (decide (k = s.cfg.cmdMeCalibrate) && decide (st = 0#8))
      meTs := if k = s.cfg.cmdMeCalibrate ∧ st = 0#8 ∧ s.meValid = false then now else s.meTs
      dcdValid := s.dcdValid || (decide (k = s.cfg.cmdSaveDcd) && decide (st = 0#8))
      dcdTs := if k = s.cfg.cmdSaveDcd ∧ st = 0#8 ∧ s.dcdValid = false then now else s.dcdTs
      errSeen := if failed then s.errSeen ||| 0x0020#16 else s.errSeen
      lastErr := if failed then 0x05#8 else s.lastErr
      rsp := if failed then { status := .calSaveFailed, value := BitVec.ofNat 32 st.toNat, info := BitVec.ofNat 32 st.toNat }
        else { status := .ok, value := BitVec.ofNat 32 st.toNat } }

/-- R146 (decision D26): a slice of another length, or whose first byte is not `ID_CMD_RESP`, is BAD_RESPONSE. For a length
from 65536 to 2^32 - 1, that `info` is the whole length is the model's choice of R146 over R171, which gives it 16 bits
(notes/assumptions/5.md); from 2^32 on its value is free (notes/assumptions/4.md). -/
def Obligations.CmdResponseRefusesOtherSlices : Prop :=
  ∀ (b : Bytes) (now : Word) (s : State),
    (b.length ≠ 16 → ∃ info : Word, (b.length < 2 ^ 32 → info.toNat = b.length) ∧
      exec (.cmdResponse b now) s = .next (abortedWith .badResponse 0x0B info s)) ∧
    (∀ b0, b.length = 16 → b.head? = some b0 → b0 ≠ s.cfg.idCmdResp → exec (.cmdResponse b now) s =
      .next (abortedWith .badResponse 0x0B (BitVec.ofNat 32 (16 + 65536 * b0.toNat)) s))

/-- R147: a zero-status response of `CMD_ME_CALIBRATE` sets the ME latch with `now`, but only while it is not set; a
non-zero status does nothing to the latch and is not an error. -/
def Obligations.MeLatchIsSetOnce : Prop :=
  ∀ (b : Bytes) (now : Word) (s : State), s.cfg.cmdMeCalibrate ≠ s.cfg.cmdSaveDcd → b.length = 16 →
    b[0]? = some s.cfg.idCmdResp → b[2]? = some s.cfg.cmdMeCalibrate →
    ∃ t, exec (.cmdResponse b now) s = .next t ∧ t.rsp.status = .ok ∧
      (b[5]? = some 0#8 → s.meValid = false → t.meValid = true ∧ t.meTs = now) ∧
      (b[5]? = some 0#8 → s.meValid = true → t.meValid = true ∧ t.meTs = s.meTs) ∧
      (b[5]? ≠ some 0#8 → t.meValid = s.meValid ∧ t.meTs = s.meTs)

/-- R148 (decision D25): a zero-status response of `CMD_SAVE_DCD` sets the DCD latch with `now`, but only while it is not
set; a non-zero status returns CAL_SAVE_FAILED and leaves the latch. -/
def Obligations.DcdLatchIsSetOnce : Prop :=
  ∀ (b : Bytes) (now : Word) (s : State), b.length = 16 →
    b[0]? = some s.cfg.idCmdResp → b[2]? = some s.cfg.cmdSaveDcd →
    ∃ t, exec (.cmdResponse b now) s = .next t ∧
      (b[5]? = some 0#8 → s.dcdValid = false → t.rsp.status = .ok ∧ t.dcdValid = true ∧ t.dcdTs = now) ∧
      (b[5]? = some 0#8 → s.dcdValid = true → t.rsp.status = .ok ∧ t.dcdValid = true ∧ t.dcdTs = s.dcdTs) ∧
      (b[5]? ≠ some 0#8 → t.rsp.status = .calSaveFailed ∧ t.dcdValid = s.dcdValid ∧ t.dcdTs = s.dcdTs)

/-- R150 (decision D24): two reports that agree on id, command and status, and two states that agree but for the sequence
counters and the last response, have the same outcome but for the latched report: no sequence field is compared. -/
def Obligations.ResponsesAreMatchedByCommandOnly : Prop :=
  ∀ (b b' : Bytes) (now : Word) (s t : State) (seq' : Vector Byte 6) (cmdSeq' : Vector Byte 256) (txp' : Txp) (latch' : RspLatch),
    b.length = 16 → b'.length = 16 → b[0]? = b'[0]? → b[2]? = b'[2]? → b[5]? = b'[5]? →
    exec (.cmdResponse b now) s = .next t →
    ∃ u, exec (.cmdResponse b' now) { s with seq := seq', cmdSeq := cmdSeq', txp := txp', rspLatch := latch' } = .next u ∧
      u = { t with seq := seq', cmdSeq := cmdSeq', txp := txp', rspLatch := u.rspLatch }

/-- R144, R199 (decision D25): but for RESET, a set latch is cleared only by committing a command of its code, and while it
stays set its timestamp stays. -/
def Obligations.LatchesAreRearmedOnlyByTheirCommand : Prop :=
  ∀ (i : Instr) (s t : State), exec i s = .next t → i ≠ .reset →
    (s.meValid = true → (t.meValid = true ∨ i = .txCommit true ∧ s.txp.valid = true ∧ s.txp.cmd = true ∧
      s.txp.code = s.cfg.cmdMeCalibrate) ∧ t.meTs = s.meTs) ∧
    (s.dcdValid = true → (t.dcdValid = true ∨ i = .txCommit true ∧ s.txp.valid = true ∧ s.txp.cmd = true ∧
      s.txp.code = s.cfg.cmdSaveDcd) ∧ t.dcdTs = s.dcdTs) ∧
    (s.meValid = false → t.meValid = true → ∃ b now, i = .cmdResponse b now ∧ t.meTs = now) ∧
    (s.dcdValid = false → t.dcdValid = true → ∃ b now, i = .cmdResponse b now ∧ t.dcdTs = now)

/-! ### Control -/

/-- R37, R162 (decision D5): what REG_READ answers for the arrays of registers. -/
def Obligations.RegReadOfTheArrays : Prop :=
  ∀ s : State,
    (∀ c : Channel, exec (.regRead (BitVec.ofNat 16 c.val)) s = .next { s with rsp := { value := BitVec.ofNat 32 s.seq[c].toNat } }) ∧
    (∀ k : Fin 11, exec (.regRead (BitVec.ofNat 16 (0x46 + k.val))) s =
      .next { s with rsp := { value := BitVec.ofNat 32 s.rspLatch.r[k].toNat } }) ∧
    (∀ id : Fin 256, exec (.regRead (BitVec.ofNat 16 (0x100 + id.val))) s =
      .next { s with rsp := { value := BitVec.ofNat 32 s.cmdSeq[id].toNat } })

/-- R37, R162 (decision D5): what REG_READ answers for the registers that stand alone, by arithmetic on their fields.
`DEPTH` of 2^16 entries or more has no stated value (notes/assumptions/3.md). -/
def Obligations.RegReadOfTheSingleRegisters : Prop :=
  ∀ (s : State) (n : Half) (v : Nat),
    (n = 0x10#16 ∧ v = s.hdr.bc.toNat + 32768 * s.hdr.cont.toNat + 65536 * s.hdr.dlen.toNat) ∨
    (n = 0x11#16 ∧ v = s.hdr.ch.toNat + 256 * s.hdr.seq.toNat + 65536 * (match s.hdr.cls with
      | .none => 0 | .valid => 1 | .empty => 2 | .error => 3)) ∨
    (n = 0x12#16 ∧ v = s.pkt.length ∧ s.pkt.length ≤ 0x7FFB) ∨ (n = 0x13#16 ∧ v = s.stk.length ∧ s.stk.length < 65536) ∨
    (n = 0x14#16 ∧ v = s.txp.valid.toNat + 2 * s.txp.cmd.toNat + 256 * s.txp.ch.val + 65536 * s.txp.code.toNat) ∨
    (n = 0x30#16 ∧ v = s.meValid.toNat) ∨ (n = 0x31#16 ∧ v = s.meTs.toNat) ∨
    (n = 0x32#16 ∧ v = s.dcdValid.toNat) ∨ (n = 0x33#16 ∧ v = s.dcdTs.toNat) ∨
    (n = 0x40#16 ∧ v = s.rspLatch.valid.toNat) ∨ (n = 0x41#16 ∧ v = s.rspLatch.reportId.toNat) ∨
    (n = 0x42#16 ∧ v = s.rspLatch.seq.toNat) ∨ (n = 0x43#16 ∧ v = s.rspLatch.command.toNat) ∨
    (n = 0x44#16 ∧ v = s.rspLatch.commandSeq.toNat) ∨ (n = 0x45#16 ∧ v = s.rspLatch.responseSeq.toNat) ∨
    (n = 0x60#16 ∧ v = s.errSeen.toNat) ∨ (n = 0x61#16 ∧ v = s.lastErr.toNat) →
    exec (.regRead n) s = .next { s with rsp := { value := BitVec.ofNat 32 v } }

/-- R38, R162 (decision D5): the unmapped register numbers are BAD_REG, and nothing but the response is written. -/
def Obligations.UnmappedRegistersAreBadReg : Prop :=
  ∀ (n : Half) (s : State),
    ((0x0006 ≤ n.toNat ∧ n.toNat ≤ 0x000F) ∨ (0x0015 ≤ n.toNat ∧ n.toNat ≤ 0x002F) ∨ (0x0034 ≤ n.toNat ∧ n.toNat ≤ 0x003F) ∨
      (0x0051 ≤ n.toNat ∧ n.toNat ≤ 0x005F) ∨ (0x0062 ≤ n.toNat ∧ n.toNat ≤ 0x00FF) ∨ 0x0200 ≤ n.toNat) →
    exec (.regRead n) s = .next (rejectedWith .badReg (BitVec.ofNat 32 n.toNat) s)

/-- R74, R164 (decision D33): each of the 243 reserved opcodes raises ILLEGAL_OP and changes only the error record. -/
def Obligations.ReservedOpcodesAreIllegal : Prop :=
  ∀ (r : Request) (s : State), r.op = 0x00#8 ∨ 0x0D ≤ r.op.toNat →
    decode r = .reserved r.op ∧
    exec (.reserved r.op) s = .next (abortedWith .illegalOp 0x0E (BitVec.ofNat 32 r.op.toNat) s)

/-! ### The whole machine -/

/-- R14, R57 (decision D29): a pure operation writes nothing but its response, and repeating it gives the same response. -/
def Obligations.PureOperationsWriteNothing : Prop :=
  ∀ (i : Instr) (s : State), i.isPure = true →
    ∃ t, exec i s = .next t ∧ t = { s with rsp := t.rsp } ∧ exec i t = .next t

/-- R13, R170, R178 (decisions D28, D30): an operation that ends with an aborting status changes nothing but the error
record; its response holds the status, the detail and defaults. -/
def Obligations.AbortedOperationsArePrecise : Prop :=
  ∀ (i : Instr) (s t : State), exec i s = .next t → statusAborts t.rsp.status = true →
    t = { s with errSeen := t.errSeen, lastErr := t.lastErr, rsp := { status := t.rsp.status, info := t.rsp.info } }

/-- R172, R34, R35 (decisions D28, D29): the error record after any operation but RESET. -/
def Obligations.ErrorRecordIsSticky : Prop :=
  ∀ (i : Instr) (s t : State), exec i s = .next t → i ≠ .reset →
    (i.isPure = true ∨ t.rsp.status = .ok → t.errSeen = s.errSeen ∧ t.lastErr = s.lastErr) ∧
    (i.isPure = false → t.rsp.status ≠ .ok →
      t.lastErr = statusCode t.rsp.status ∧ t.lastErr ≠ 0#8 ∧
      ∀ n, t.errSeen.getLsbD n = (s.errSeen.getLsbD n || decide (n = (statusCode t.rsp.status).toNat)))

/-- R172 (decision D28): "The record never decides anything": an operation other than REG_READ does the same whatever the
error record holds. -/
def Obligations.ErrorRecordDecidesNothing : Prop :=
  ∀ (i : Instr) (s t : State) (seen : Half) (last : Byte), (∀ n, i ≠ .regRead n) → exec i s = .next t →
    ∃ u, exec i { s with errSeen := seen, lastErr := last } = .next u ∧
      u = { t with errSeen := u.errSeen, lastErr := u.lastErr }

/-- R6, R71: the response is an output: no operation reads the one before it. `rsp` is the model's own field
(notes/assumptions/2.md). -/
def Obligations.ResponseIsNeverReadBack : Prop :=
  ∀ (i : Instr) (s : State) (r : Response), exec i { s with rsp := r } = exec i s

/-- R23, R24, R25, R27, R28, R30, R31, R32, R33, R34, R35 and the "State written" lines of R100, R104, R108, R128, R140, R146
(decisions D5, D7, D13, D15, D18, D23, D25, D26, D28, D29): which operations may write each register; every other
operation leaves it. The clause on the queue of requests is about the model's own field (notes/assumptions/2.md). -/
def Obligations.EachRegisterHasItsWriters : Prop :=
  ∀ (i : Instr) (s t : State), exec i s = .next t → i ≠ .reset →
    ((∀ f, i ≠ .rxFrame f) → t.hdr = s.hdr ∧ t.pkt = s.pkt) ∧
    ((∀ f, i ≠ .rxFrame f) → i ≠ .txCommit true → t.seq = s.seq) ∧
    (i ≠ .txCommit true → t.cmdSeq = s.cmdSeq) ∧
    (i ≠ .split → i ≠ .popSlice → t.stk = s.stk) ∧
    ((∀ ch p, i ≠ .txFrame ch p) → (∀ k q, i ≠ .cmdIssue k q) → (∀ ok, i ≠ .txCommit ok) → t.txp = s.txp) ∧
    ((∀ b now, i ≠ .cmdResponse b now) → t.rspLatch = s.rspLatch ∧ t.meTs = s.meTs ∧ t.dcdTs = s.dcdTs) ∧
    ((∀ b now, i ≠ .cmdResponse b now) → i ≠ .txCommit true → t.meValid = s.meValid ∧ t.dcdValid = s.dcdValid) ∧
    (i.isPure = true ∨ t.rsp.status = .ok → t.errSeen = s.errSeen ∧ t.lastErr = s.lastErr) ∧
    t.requests = s.requests
end

