-- ==== Sys2Proof/Laws/State.lean ====
section
/-! SUPPORT. For each update of the state, what every field reads after it. -/

namespace Sys2Proof.Machine


/-! ### `writeSeq` -/

@[simp] theorem writeSeq_cfg (c : Channel) (v : Byte) (s : State) : (writeSeq c v s).cfg = s.cfg := rfl
@[simp] theorem writeSeq_cmdSeq (c : Channel) (v : Byte) (s : State) : (writeSeq c v s).cmdSeq = s.cmdSeq := rfl
@[simp] theorem writeSeq_hdr (c : Channel) (v : Byte) (s : State) : (writeSeq c v s).hdr = s.hdr := rfl
@[simp] theorem writeSeq_pkt (c : Channel) (v : Byte) (s : State) : (writeSeq c v s).pkt = s.pkt := rfl
@[simp] theorem writeSeq_stk (c : Channel) (v : Byte) (s : State) : (writeSeq c v s).stk = s.stk := rfl
@[simp] theorem writeSeq_txp (c : Channel) (v : Byte) (s : State) : (writeSeq c v s).txp = s.txp := rfl
@[simp] theorem writeSeq_meValid (c : Channel) (v : Byte) (s : State) : (writeSeq c v s).meValid = s.meValid := rfl
@[simp] theorem writeSeq_meTs (c : Channel) (v : Byte) (s : State) : (writeSeq c v s).meTs = s.meTs := rfl
@[simp] theorem writeSeq_dcdValid (c : Channel) (v : Byte) (s : State) : (writeSeq c v s).dcdValid = s.dcdValid := rfl
@[simp] theorem writeSeq_dcdTs (c : Channel) (v : Byte) (s : State) : (writeSeq c v s).dcdTs = s.dcdTs := rfl
@[simp] theorem writeSeq_rspLatch (c : Channel) (v : Byte) (s : State) : (writeSeq c v s).rspLatch = s.rspLatch := rfl
@[simp] theorem writeSeq_errSeen (c : Channel) (v : Byte) (s : State) : (writeSeq c v s).errSeen = s.errSeen := rfl
@[simp] theorem writeSeq_lastErr (c : Channel) (v : Byte) (s : State) : (writeSeq c v s).lastErr = s.lastErr := rfl
@[simp] theorem writeSeq_requests (c : Channel) (v : Byte) (s : State) : (writeSeq c v s).requests = s.requests := rfl
@[simp] theorem writeSeq_rsp (c : Channel) (v : Byte) (s : State) : (writeSeq c v s).rsp = s.rsp := rfl
@[simp] theorem writeSeq_seq (c : Channel) (v : Byte) (s : State) : (writeSeq c v s).seq = s.seq.set c v := rfl

/-! ### `bumpSeq` -/

@[simp] theorem bumpSeq_cfg (c : Channel) (s : State) : (bumpSeq c s).cfg = s.cfg := rfl
@[simp] theorem bumpSeq_cmdSeq (c : Channel) (s : State) : (bumpSeq c s).cmdSeq = s.cmdSeq := rfl
@[simp] theorem bumpSeq_hdr (c : Channel) (s : State) : (bumpSeq c s).hdr = s.hdr := rfl
@[simp] theorem bumpSeq_pkt (c : Channel) (s : State) : (bumpSeq c s).pkt = s.pkt := rfl
@[simp] theorem bumpSeq_stk (c : Channel) (s : State) : (bumpSeq c s).stk = s.stk := rfl
@[simp] theorem bumpSeq_txp (c : Channel) (s : State) : (bumpSeq c s).txp = s.txp := rfl
@[simp] theorem bumpSeq_meValid (c : Channel) (s : State) : (bumpSeq c s).meValid = s.meValid := rfl
@[simp] theorem bumpSeq_meTs (c : Channel) (s : State) : (bumpSeq c s).meTs = s.meTs := rfl
@[simp] theorem bumpSeq_dcdValid (c : Channel) (s : State) : (bumpSeq c s).dcdValid = s.dcdValid := rfl
@[simp] theorem bumpSeq_dcdTs (c : Channel) (s : State) : (bumpSeq c s).dcdTs = s.dcdTs := rfl
@[simp] theorem bumpSeq_rspLatch (c : Channel) (s : State) : (bumpSeq c s).rspLatch = s.rspLatch := rfl
@[simp] theorem bumpSeq_errSeen (c : Channel) (s : State) : (bumpSeq c s).errSeen = s.errSeen := rfl
@[simp] theorem bumpSeq_lastErr (c : Channel) (s : State) : (bumpSeq c s).lastErr = s.lastErr := rfl
@[simp] theorem bumpSeq_requests (c : Channel) (s : State) : (bumpSeq c s).requests = s.requests := rfl
@[simp] theorem bumpSeq_rsp (c : Channel) (s : State) : (bumpSeq c s).rsp = s.rsp := rfl
@[simp] theorem bumpSeq_seq (c : Channel) (s : State) : (bumpSeq c s).seq = s.seq.set c (s.seq[c] + 1#8) := rfl

/-! ### `mirrorSeq` -/

theorem mirrorSeq_of_chan {ch : Byte} {c : Channel} (h : chan? ch = some c) (v : Byte) (s : State) :
    mirrorSeq ch v s = writeSeq c v s := by simp [mirrorSeq, h]

theorem mirrorSeq_of_none {ch : Byte} (h : chan? ch = none) (v : Byte) (s : State) : mirrorSeq ch v s = s := by
  simp [mirrorSeq, h]

@[simp] theorem mirrorSeq_cfg (ch v : Byte) (s : State) : (mirrorSeq ch v s).cfg = s.cfg := by
  unfold mirrorSeq; split <;> rfl
@[simp] theorem mirrorSeq_cmdSeq (ch v : Byte) (s : State) : (mirrorSeq ch v s).cmdSeq = s.cmdSeq := by
  unfold mirrorSeq; split <;> rfl
@[simp] theorem mirrorSeq_hdr (ch v : Byte) (s : State) : (mirrorSeq ch v s).hdr = s.hdr := by
  unfold mirrorSeq; split <;> rfl
@[simp] theorem mirrorSeq_pkt (ch v : Byte) (s : State) : (mirrorSeq ch v s).pkt = s.pkt := by
  unfold mirrorSeq; split <;> rfl
@[simp] theorem mirrorSeq_stk (ch v : Byte) (s : State) : (mirrorSeq ch v s).stk = s.stk := by
  unfold mirrorSeq; split <;> rfl
@[simp] theorem mirrorSeq_txp (ch v : Byte) (s : State) : (mirrorSeq ch v s).txp = s.txp := by
  unfold mirrorSeq; split <;> rfl
@[simp] theorem mirrorSeq_meValid (ch v : Byte) (s : State) : (mirrorSeq ch v s).meValid = s.meValid := by
  unfold mirrorSeq; split <;> rfl
@[simp] theorem mirrorSeq_meTs (ch v : Byte) (s : State) : (mirrorSeq ch v s).meTs = s.meTs := by
  unfold mirrorSeq; split <;> rfl
@[simp] theorem mirrorSeq_dcdValid (ch v : Byte) (s : State) : (mirrorSeq ch v s).dcdValid = s.dcdValid := by
  unfold mirrorSeq; split <;> rfl
@[simp] theorem mirrorSeq_dcdTs (ch v : Byte) (s : State) : (mirrorSeq ch v s).dcdTs = s.dcdTs := by
  unfold mirrorSeq; split <;> rfl
@[simp] theorem mirrorSeq_rspLatch (ch v : Byte) (s : State) : (mirrorSeq ch v s).rspLatch = s.rspLatch := by
  unfold mirrorSeq; split <;> rfl
@[simp] theorem mirrorSeq_errSeen (ch v : Byte) (s : State) : (mirrorSeq ch v s).errSeen = s.errSeen := by
  unfold mirrorSeq; split <;> rfl
@[simp] theorem mirrorSeq_lastErr (ch v : Byte) (s : State) : (mirrorSeq ch v s).lastErr = s.lastErr := by
  unfold mirrorSeq; split <;> rfl
@[simp] theorem mirrorSeq_requests (ch v : Byte) (s : State) : (mirrorSeq ch v s).requests = s.requests := by
  unfold mirrorSeq; split <;> rfl
@[simp] theorem mirrorSeq_rsp (ch v : Byte) (s : State) : (mirrorSeq ch v s).rsp = s.rsp := by
  unfold mirrorSeq; split <;> rfl

/-! ### `bumpCmdSeq` -/

@[simp] theorem bumpCmdSeq_cfg (id : Byte) (s : State) : (bumpCmdSeq id s).cfg = s.cfg := rfl
@[simp] theorem bumpCmdSeq_seq (id : Byte) (s : State) : (bumpCmdSeq id s).seq = s.seq := rfl
@[simp] theorem bumpCmdSeq_hdr (id : Byte) (s : State) : (bumpCmdSeq id s).hdr = s.hdr := rfl
@[simp] theorem bumpCmdSeq_pkt (id : Byte) (s : State) : (bumpCmdSeq id s).pkt = s.pkt := rfl
@[simp] theorem bumpCmdSeq_stk (id : Byte) (s : State) : (bumpCmdSeq id s).stk = s.stk := rfl
@[simp] theorem bumpCmdSeq_txp (id : Byte) (s : State) : (bumpCmdSeq id s).txp = s.txp := rfl
@[simp] theorem bumpCmdSeq_meValid (id : Byte) (s : State) : (bumpCmdSeq id s).meValid = s.meValid := rfl
@[simp] theorem bumpCmdSeq_meTs (id : Byte) (s : State) : (bumpCmdSeq id s).meTs = s.meTs := rfl
@[simp] theorem bumpCmdSeq_dcdValid (id : Byte) (s : State) : (bumpCmdSeq id s).dcdValid = s.dcdValid := rfl
@[simp] theorem bumpCmdSeq_dcdTs (id : Byte) (s : State) : (bumpCmdSeq id s).dcdTs = s.dcdTs := rfl
@[simp] theorem bumpCmdSeq_rspLatch (id : Byte) (s : State) : (bumpCmdSeq id s).rspLatch = s.rspLatch := rfl
@[simp] theorem bumpCmdSeq_errSeen (id : Byte) (s : State) : (bumpCmdSeq id s).errSeen = s.errSeen := rfl
@[simp] theorem bumpCmdSeq_lastErr (id : Byte) (s : State) : (bumpCmdSeq id s).lastErr = s.lastErr := rfl
@[simp] theorem bumpCmdSeq_requests (id : Byte) (s : State) : (bumpCmdSeq id s).requests = s.requests := rfl
@[simp] theorem bumpCmdSeq_rsp (id : Byte) (s : State) : (bumpCmdSeq id s).rsp = s.rsp := rfl
@[simp] theorem bumpCmdSeq_cmdSeq (s : State) :
    (bumpCmdSeq Config.idCmdReq s).cmdSeq = s.cmdSeq.set 0xF2 (s.cmdSeq[0xF2] + 1#8) := rfl

/-! ### `rearmLatches` -/

@[simp] theorem rearmLatches_cfg (code : Byte) (s : State) : (rearmLatches code s).cfg = s.cfg := rfl
@[simp] theorem rearmLatches_seq (code : Byte) (s : State) : (rearmLatches code s).seq = s.seq := rfl
@[simp] theorem rearmLatches_cmdSeq (code : Byte) (s : State) : (rearmLatches code s).cmdSeq = s.cmdSeq := rfl
@[simp] theorem rearmLatches_hdr (code : Byte) (s : State) : (rearmLatches code s).hdr = s.hdr := rfl
@[simp] theorem rearmLatches_pkt (code : Byte) (s : State) : (rearmLatches code s).pkt = s.pkt := rfl
@[simp] theorem rearmLatches_stk (code : Byte) (s : State) : (rearmLatches code s).stk = s.stk := rfl
@[simp] theorem rearmLatches_txp (code : Byte) (s : State) : (rearmLatches code s).txp = s.txp := rfl
@[simp] theorem rearmLatches_meTs (code : Byte) (s : State) : (rearmLatches code s).meTs = s.meTs := rfl
@[simp] theorem rearmLatches_dcdTs (code : Byte) (s : State) : (rearmLatches code s).dcdTs = s.dcdTs := rfl
@[simp] theorem rearmLatches_rspLatch (code : Byte) (s : State) : (rearmLatches code s).rspLatch = s.rspLatch := rfl
@[simp] theorem rearmLatches_errSeen (code : Byte) (s : State) : (rearmLatches code s).errSeen = s.errSeen := rfl
@[simp] theorem rearmLatches_lastErr (code : Byte) (s : State) : (rearmLatches code s).lastErr = s.lastErr := rfl
@[simp] theorem rearmLatches_requests (code : Byte) (s : State) : (rearmLatches code s).requests = s.requests := rfl
@[simp] theorem rearmLatches_rsp (code : Byte) (s : State) : (rearmLatches code s).rsp = s.rsp := rfl
@[simp] theorem rearmLatches_meValid (code : Byte) (s : State) :
    (rearmLatches code s).meValid = if code = s.cfg.cmdMeCalibrate then false else s.meValid := rfl
@[simp] theorem rearmLatches_dcdValid (code : Byte) (s : State) :
    (rearmLatches code s).dcdValid = if code = s.cfg.cmdSaveDcd then false else s.dcdValid := rfl

/-! ### `applySend` -/

@[simp] theorem applySend_cfg  (s : State) : (applySend s).cfg = s.cfg := by
  unfold applySend; dsimp only; split <;> rfl
@[simp] theorem applySend_hdr  (s : State) : (applySend s).hdr = s.hdr := by
  unfold applySend; dsimp only; split <;> rfl
@[simp] theorem applySend_pkt  (s : State) : (applySend s).pkt = s.pkt := by
  unfold applySend; dsimp only; split <;> rfl
@[simp] theorem applySend_stk  (s : State) : (applySend s).stk = s.stk := by
  unfold applySend; dsimp only; split <;> rfl
@[simp] theorem applySend_txp  (s : State) : (applySend s).txp = s.txp := by
  unfold applySend; dsimp only; split <;> rfl
@[simp] theorem applySend_meTs  (s : State) : (applySend s).meTs = s.meTs := by
  unfold applySend; dsimp only; split <;> rfl
@[simp] theorem applySend_dcdTs  (s : State) : (applySend s).dcdTs = s.dcdTs := by
  unfold applySend; dsimp only; split <;> rfl
@[simp] theorem applySend_rspLatch  (s : State) : (applySend s).rspLatch = s.rspLatch := by
  unfold applySend; dsimp only; split <;> rfl
@[simp] theorem applySend_errSeen  (s : State) : (applySend s).errSeen = s.errSeen := by
  unfold applySend; dsimp only; split <;> rfl
@[simp] theorem applySend_lastErr  (s : State) : (applySend s).lastErr = s.lastErr := by
  unfold applySend; dsimp only; split <;> rfl
@[simp] theorem applySend_requests  (s : State) : (applySend s).requests = s.requests := by
  unfold applySend; dsimp only; split <;> rfl
@[simp] theorem applySend_rsp  (s : State) : (applySend s).rsp = s.rsp := by
  unfold applySend; dsimp only; split <;> rfl
@[simp] theorem applySend_seq (s : State) : (applySend s).seq = s.seq.set s.txp.ch (s.seq[s.txp.ch] + 1#8) := by
  unfold applySend; dsimp only; split <;> rfl
@[simp] theorem applySend_cmdSeq (s : State) :
    (applySend s).cmdSeq = if s.txp.cmd then s.cmdSeq.set 0xF2 (s.cmdSeq[0xF2] + 1#8) else s.cmdSeq := by
  unfold applySend; dsimp only; split <;> rfl
@[simp] theorem applySend_meValid (s : State) : (applySend s).meValid =
    if s.txp.cmd = true ∧ s.txp.code = s.cfg.cmdMeCalibrate then false else s.meValid := by
  unfold applySend; dsimp only; split
  · rename_i h; simp only [h, true_and]; rfl
  · rename_i h; simp only [h]; rfl
@[simp] theorem applySend_dcdValid (s : State) : (applySend s).dcdValid =
    if s.txp.cmd = true ∧ s.txp.code = s.cfg.cmdSaveDcd then false else s.dcdValid := by
  unfold applySend; dsimp only; split
  · rename_i h; simp only [h, true_and]; rfl
  · rename_i h; simp only [h]; rfl

/-! ### `latchMe` and `latchDcd` -/

@[simp] theorem latchMe_cfg (cmd st : Byte) (now : Word) (s : State) : (latchMe cmd st now s).cfg = s.cfg := by
  unfold latchMe; split <;> rfl
@[simp] theorem latchMe_seq (cmd st : Byte) (now : Word) (s : State) : (latchMe cmd st now s).seq = s.seq := by
  unfold latchMe; split <;> rfl
@[simp] theorem latchMe_cmdSeq (cmd st : Byte) (now : Word) (s : State) : (latchMe cmd st now s).cmdSeq = s.cmdSeq := by
  unfold latchMe; split <;> rfl
@[simp] theorem latchMe_hdr (cmd st : Byte) (now : Word) (s : State) : (latchMe cmd st now s).hdr = s.hdr := by
  unfold latchMe; split <;> rfl
@[simp] theorem latchMe_pkt (cmd st : Byte) (now : Word) (s : State) : (latchMe cmd st now s).pkt = s.pkt := by
  unfold latchMe; split <;> rfl
@[simp] theorem latchMe_stk (cmd st : Byte) (now : Word) (s : State) : (latchMe cmd st now s).stk = s.stk := by
  unfold latchMe; split <;> rfl
@[simp] theorem latchMe_txp (cmd st : Byte) (now : Word) (s : State) : (latchMe cmd st now s).txp = s.txp := by
  unfold latchMe; split <;> rfl
@[simp] theorem latchMe_dcdValid (cmd st : Byte) (now : Word) (s : State) : (latchMe cmd st now s).dcdValid = s.dcdValid := by
  unfold latchMe; split <;> rfl
@[simp] theorem latchMe_dcdTs (cmd st : Byte) (now : Word) (s : State) : (latchMe cmd st now s).dcdTs = s.dcdTs := by
  unfold latchMe; split <;> rfl
@[simp] theorem latchMe_rspLatch (cmd st : Byte) (now : Word) (s : State) : (latchMe cmd st now s).rspLatch = s.rspLatch := by
  unfold latchMe; split <;> rfl
@[simp] theorem latchMe_errSeen (cmd st : Byte) (now : Word) (s : State) : (latchMe cmd st now s).errSeen = s.errSeen := by
  unfold latchMe; split <;> rfl
@[simp] theorem latchMe_lastErr (cmd st : Byte) (now : Word) (s : State) : (latchMe cmd st now s).lastErr = s.lastErr := by
  unfold latchMe; split <;> rfl
@[simp] theorem latchMe_requests (cmd st : Byte) (now : Word) (s : State) : (latchMe cmd st now s).requests = s.requests := by
  unfold latchMe; split <;> rfl
@[simp] theorem latchMe_rsp (cmd st : Byte) (now : Word) (s : State) : (latchMe cmd st now s).rsp = s.rsp := by
  unfold latchMe; split <;> rfl
@[simp] theorem latchMe_meValid (cmd st : Byte) (now : Word) (s : State) : (latchMe cmd st now s).meValid =
    (s.meValid || (decide (cmd = s.cfg.cmdMeCalibrate) && decide (st = 0#8))) := by
  unfold latchMe; split
  · simp_all
  · cases hv : s.meValid <;> simp_all
@[simp] theorem latchMe_meTs (cmd st : Byte) (now : Word) (s : State) : (latchMe cmd st now s).meTs =
    if cmd = s.cfg.cmdMeCalibrate ∧ st = 0#8 ∧ s.meValid = false then now else s.meTs := by
  unfold latchMe; split <;> rfl

@[simp] theorem latchDcd_cfg (cmd st : Byte) (now : Word) (s : State) : (latchDcd cmd st now s).cfg = s.cfg := by
  unfold latchDcd; split <;> rfl
@[simp] theorem latchDcd_seq (cmd st : Byte) (now : Word) (s : State) : (latchDcd cmd st now s).seq = s.seq := by
  unfold latchDcd; split <;> rfl
@[simp] theorem latchDcd_cmdSeq (cmd st : Byte) (now : Word) (s : State) : (latchDcd cmd st now s).cmdSeq = s.cmdSeq := by
  unfold latchDcd; split <;> rfl
@[simp] theorem latchDcd_hdr (cmd st : Byte) (now : Word) (s : State) : (latchDcd cmd st now s).hdr = s.hdr := by
  unfold latchDcd; split <;> rfl
@[simp] theorem latchDcd_pkt (cmd st : Byte) (now : Word) (s : State) : (latchDcd cmd st now s).pkt = s.pkt := by
  unfold latchDcd; split <;> rfl
@[simp] theorem latchDcd_stk (cmd st : Byte) (now : Word) (s : State) : (latchDcd cmd st now s).stk = s.stk := by
  unfold latchDcd; split <;> rfl
@[simp] theorem latchDcd_txp (cmd st : Byte) (now : Word) (s : State) : (latchDcd cmd st now s).txp = s.txp := by
  unfold latchDcd; split <;> rfl
@[simp] theorem latchDcd_meValid (cmd st : Byte) (now : Word) (s : State) : (latchDcd cmd st now s).meValid = s.meValid := by
  unfold latchDcd; split <;> rfl
@[simp] theorem latchDcd_meTs (cmd st : Byte) (now : Word) (s : State) : (latchDcd cmd st now s).meTs = s.meTs := by
  unfold latchDcd; split <;> rfl
@[simp] theorem latchDcd_rspLatch (cmd st : Byte) (now : Word) (s : State) : (latchDcd cmd st now s).rspLatch = s.rspLatch := by
  unfold latchDcd; split <;> rfl
@[simp] theorem latchDcd_errSeen (cmd st : Byte) (now : Word) (s : State) : (latchDcd cmd st now s).errSeen = s.errSeen := by
  unfold latchDcd; split <;> rfl
@[simp] theorem latchDcd_lastErr (cmd st : Byte) (now : Word) (s : State) : (latchDcd cmd st now s).lastErr = s.lastErr := by
  unfold latchDcd; split <;> rfl
@[simp] theorem latchDcd_requests (cmd st : Byte) (now : Word) (s : State) : (latchDcd cmd st now s).requests = s.requests := by
  unfold latchDcd; split <;> rfl
@[simp] theorem latchDcd_rsp (cmd st : Byte) (now : Word) (s : State) : (latchDcd cmd st now s).rsp = s.rsp := by
  unfold latchDcd; split <;> rfl
@[simp] theorem latchDcd_dcdValid (cmd st : Byte) (now : Word) (s : State) : (latchDcd cmd st now s).dcdValid =
    (s.dcdValid || (decide (cmd = s.cfg.cmdSaveDcd) && decide (st = 0#8))) := by
  unfold latchDcd; split
  · simp_all
  · cases hv : s.dcdValid <;> simp_all
@[simp] theorem latchDcd_dcdTs (cmd st : Byte) (now : Word) (s : State) : (latchDcd cmd st now s).dcdTs =
    if cmd = s.cfg.cmdSaveDcd ∧ st = 0#8 ∧ s.dcdValid = false then now else s.dcdTs := by
  unfold latchDcd; split <;> rfl


/-! ### `recordError` -/

@[simp] theorem recordError_ok (s : State) : recordError .ok s = s := rfl

theorem recordError_of_ne {st : Status} (h : st ≠ .ok) (s : State) :
    recordError st s = { s with errSeen := s.errSeen ||| errBit st, lastErr := statusCode st } := by
  simp [recordError, h]

@[simp] theorem recordError_cfg (st : Status) (s : State) : (recordError st s).cfg = s.cfg := by
  unfold recordError; split <;> rfl
@[simp] theorem recordError_seq (st : Status) (s : State) : (recordError st s).seq = s.seq := by
  unfold recordError; split <;> rfl
@[simp] theorem recordError_cmdSeq (st : Status) (s : State) : (recordError st s).cmdSeq = s.cmdSeq := by
  unfold recordError; split <;> rfl
@[simp] theorem recordError_hdr (st : Status) (s : State) : (recordError st s).hdr = s.hdr := by
  unfold recordError; split <;> rfl
@[simp] theorem recordError_pkt (st : Status) (s : State) : (recordError st s).pkt = s.pkt := by
  unfold recordError; split <;> rfl
@[simp] theorem recordError_stk (st : Status) (s : State) : (recordError st s).stk = s.stk := by
  unfold recordError; split <;> rfl
@[simp] theorem recordError_txp (st : Status) (s : State) : (recordError st s).txp = s.txp := by
  unfold recordError; split <;> rfl
@[simp] theorem recordError_meValid (st : Status) (s : State) : (recordError st s).meValid = s.meValid := by
  unfold recordError; split <;> rfl
@[simp] theorem recordError_meTs (st : Status) (s : State) : (recordError st s).meTs = s.meTs := by
  unfold recordError; split <;> rfl
@[simp] theorem recordError_dcdValid (st : Status) (s : State) : (recordError st s).dcdValid = s.dcdValid := by
  unfold recordError; split <;> rfl
@[simp] theorem recordError_dcdTs (st : Status) (s : State) : (recordError st s).dcdTs = s.dcdTs := by
  unfold recordError; split <;> rfl
@[simp] theorem recordError_rspLatch (st : Status) (s : State) : (recordError st s).rspLatch = s.rspLatch := by
  unfold recordError; split <;> rfl
@[simp] theorem recordError_requests (st : Status) (s : State) : (recordError st s).requests = s.requests := by
  unfold recordError; split <;> rfl
@[simp] theorem recordError_rsp (st : Status) (s : State) : (recordError st s).rsp = s.rsp := by
  unfold recordError; split <;> rfl

end Sys2Proof.Machine
end

