-- ==== Sys2Proof/Laws/Ops.lean ====
section
/-! SUPPORT. For each shared operation, once, everything it can do. -/

namespace Sys2Proof.Machine

/-! ### Constants -/

theorem pktCap_eq : Config.pktCap = 0x7FFB := rfl
theorem idCmdReq_eq : Config.idCmdReq = 0xF2#8 := rfl
theorem chControl_eq : Config.chControl = 2 := rfl
theorem cmdMaxParams_eq : Config.cmdMaxParams = 9 := rfl
theorem cmdRespLen_eq : Config.cmdRespLen = 16 := rfl

/-! ### Byte order -/

theorem le16_toNat (lo hi : Byte) : (le16 lo hi).toNat = lo.toNat + 256 * hi.toNat := by
  have hlo := lo.isLt
  have hhi := hi.isLt
  have hs : hi.toNat <<< 8 % 2 ^ 16 = hi.toNat <<< 8 := Nat.mod_eq_of_lt (by rw [Nat.shiftLeft_eq]; omega)
  simp only [le16, BitVec.toNat_or, BitVec.toNat_setWidth, BitVec.toNat_shiftLeft]
  rw [Nat.mod_eq_of_lt (by omega : lo.toNat < 2 ^ 16), Nat.mod_eq_of_lt (by omega : hi.toNat < 2 ^ 16), hs, Nat.or_comm,
    ← Nat.shiftLeft_add_eq_or_of_lt hlo, Nat.shiftLeft_eq]
  omega

theorem le16Bytes_eq (n : Nat) (h : n < 2 ^ 16) :
    le16Bytes (BitVec.ofNat 16 n) = [BitVec.ofNat 8 (n % 256), BitVec.ofNat 8 (n / 256)] := by
  have h0 : (BitVec.ofNat 16 n).extractLsb' 0 8 = BitVec.ofNat 8 (n % 256) := by
    apply BitVec.eq_of_toNat_eq
    simp only [BitVec.extractLsb'_toNat, BitVec.toNat_ofNat, Nat.shiftRight_zero]
    omega
  have h1 : (BitVec.ofNat 16 n).extractLsb' 8 8 = BitVec.ofNat 8 (n / 256) := by
    apply BitVec.eq_of_toNat_eq
    simp only [BitVec.extractLsb'_toNat, BitVec.toNat_ofNat, Nat.shiftRight_eq_div_pow]
    omega
  simp [le16Bytes, h0, h1]

/-! ### Channels and lengths -/

theorem chan?_eq_some_iff {ch : Byte} {c : Channel} : chan? ch = some c ↔ c.val = ch.toNat := by
  unfold chan?
  split
  · rename_i h
    simp only [Option.some.injEq, Fin.ext_iff]
    exact eq_comm
  · rename_i h
    simp only [reduceCtorEq, false_iff]
    have := c.isLt
    omega

theorem chan?_eq_none_iff {ch : Byte} : chan? ch = none ↔ 5 < ch.toNat := by
  unfold chan?
  split <;> simp <;> omega

theorem infoOfLen_of_lt {n : Nat} (h : n < 2 ^ 32) : infoOfLen n = BitVec.ofNat 32 n := by
  simp only [infoOfLen, h, if_true]

theorem infoOfLen_toNat {n : Nat} (h : n < 2 ^ 32) : (infoOfLen n).toNat = n := by
  rw [infoOfLen_of_lt h, BitVec.toNat_ofNat, Nat.mod_eq_of_lt h]

/-! ### The endings -/

theorem returnWith_eq_next {st : Status} {r : Response} {s t : State} :
    returnWith st r s = .next t ↔ t = recordError st { s with rsp := { r with status := st } } := by
  simp only [returnWith, Host.Outcome.next.injEq, eq_comm]

theorem returnWith_ok {r : Response} {s t : State} :
    returnWith .ok r s = .next t ↔ t = { s with rsp := { r with status := .ok } } := returnWith_eq_next

theorem pureReturn_eq_next {r : Response} {s t : State} :
    pureReturn r s = .next t ↔ t = { s with rsp := { r with status := .ok } } := by
  simp only [pureReturn, Host.Outcome.next.injEq, eq_comm]

theorem pureRaise_eq_next {st : Status} {info : Word} {s t : State} :
    pureRaise st info s = .next t ↔ t = { s with rsp := { status := st, info := info } } := by
  simp only [pureRaise, Host.Outcome.next.injEq, eq_comm]

theorem raiseWith_eq_next {st : Status} {info : Word} {s t : State} :
    raiseWith st info s = .next t ↔ t = recordError st { s with rsp := { status := st, info := info } } := by
  simp only [raiseWith, Host.Outcome.next.injEq, eq_comm]

/-- A `raise` in the terms statements use: the status and its code, the detail, the error record, nothing else. -/
theorem raiseWith_eq_aborted {st : Status} (h : st ≠ .ok) (info : Word) (s : State) :
    raiseWith st info s = .next (abortedWith st (statusCode st).toNat info s) := by
  unfold raiseWith abortedWith
  rw [recordError_of_ne h]
  cases st <;> rfl

/-- The same, with the code as a numeral. -/
theorem raiseWith_eq_abortedWith {st : Status} (h : st ≠ .ok) {code : Nat} (hc : (statusCode st).toNat = code) (info : Word)
    (s : State) : raiseWith st info s = .next (abortedWith st code info s) := by
  subst hc
  exact raiseWith_eq_aborted h info s

/-- The bits of `ERR_SEEN` a status sets: its own (R34). -/
theorem errBit_getLsbD (st : Status) (n : Nat) : (errBit st).getLsbD n = decide (n = (statusCode st).toNat) := by
  by_cases h : n < 16
  · have hn : ∀ n : Fin 16, (errBit st).getLsbD n = decide (n.val = (statusCode st).toNat) := by cases st <;> decide
    exact hn ⟨n, h⟩
  · have hs : (statusCode st).toNat < 16 := by cases st <;> decide
    rw [BitVec.getLsbD_of_ge _ _ (by omega), eq_comm, decide_eq_false_iff_not]
    omega

/-! ### Headers and frames -/

theorem decodeHeader_bc_toNat (mode : AllOnesMode) (h0 h1 h2 h3 : Byte) :
    (decodeHeader mode h0 h1 h2 h3).bc.toNat = (h0.toNat + 256 * h1.toNat) % 2 ^ 15 := by
  simp [decodeHeader, le16_toNat]

/-- A decoded header has a class (R82), and one other than ERROR only on a channel that exists. -/
theorem decodeHeader_cls (mode : AllOnesMode) (h0 h1 h2 h3 : Byte) :
    (decodeHeader mode h0 h1 h2 h3).cls ≠ .none ∧
    ((decodeHeader mode h0 h1 h2 h3).cls ≠ .error → ∃ c : Channel, c.val = h2.toNat) := by
  constructor
  · simp only [decodeHeader, classify]
    split_ifs <;> simp
  · intro h
    have h5 : ¬5 < h2.toNat := fun h5 => h (by simp [decodeHeader, classify, h5])
    exact ⟨⟨h2.toNat, by omega⟩, rfl⟩

/-- `encode_frame` byte by byte (R83). -/
theorem encodeFrame_eq (c q : Byte) {p : Bytes} (h : p.length ≤ 0x7FFB) : encodeFrame c q p =
    [BitVec.ofNat 8 ((p.length + 4) % 256), BitVec.ofNat 8 ((p.length + 4) / 256), c, q] ++ p := by
  rw [encodeFrame, le16Bytes_eq _ (by omega)]
  rfl

/-! ### The length lookup -/

theorem rowLen_mem {rows : List LenRow} {id : Byte} {n : Nat} (h : rowLen rows id = some n) :
    ∃ row ∈ rows, row.id = id ∧ row.len = n := by
  unfold rowLen at h
  obtain ⟨row, hf, hn⟩ := Option.map_eq_some_iff.1 h
  exact ⟨row, List.mem_of_find?_eq_some hf, by simpa using List.find?_some hf, hn⟩

/-- A row of a legal table is what the lookup of its id finds. -/
theorem rowLen_of_mem {rows : List LenRow} {lo hi mx : Nat} (h : LegalTable rows lo hi mx) {row : LenRow} (hr : row ∈ rows) :
    rowLen rows row.id = some row.len := by
  obtain ⟨hp, -⟩ := h
  unfold rowLen
  induction rows with
  | nil => exact absurd hr List.not_mem_nil
  | cons r rs ih =>
    rw [List.map_cons, List.pairwise_cons] at hp
    rcases List.mem_cons.1 hr with rfl | hr'
    · simp
    · have hlt : r.id.toNat < row.id.toNat := hp.1 _ (List.mem_map_of_mem hr')
      have hne : r.id ≠ row.id := fun e => by rw [e] at hlt; omega
      rw [List.find?_cons_of_neg (by simpa using hne)]
      exact ih hr' hp.2

/-- Every entry of a legal configuration's tables is a length from 1 to `REPORT_LEN_MAX` (R9 a and f). -/
theorem lookupLen_bounds {c : Config} (hc : Legal c) {id : Byte} {n : Nat} (h : lookupLen c id = some n) :
    1 ≤ n ∧ n ≤ c.reportLenMax ∧ n ≤ 255 := by
  obtain ⟨⟨-, hs⟩, ⟨-, hk⟩, ⟨-, hm⟩, -⟩ := hc
  unfold lookupLen at h
  split at h
  · obtain ⟨row, hr, -, rfl⟩ := rowLen_mem h
    have := hs row hr
    omega
  · obtain ⟨row, hr, -, rfl⟩ := rowLen_mem h
    have := hk row hr
    omega

/-! ### Sequences of operations -/

theorem runOps_cons_of_next {i : Instr} {s t : State} (h : exec i s = .next t) (rest : List Instr) :
    runOps (i :: rest) s = (t.rsp :: (runOps rest t).1, (runOps rest t).2) := by
  simp only [runOps, h]

/-! ### The splitting loop -/

@[simp] theorem joined_nil : joined [] = [] := rfl
@[simp] theorem joined_cons (e : Slice) (l : List Slice) : joined (e :: l) = e.bytes ++ joined l := rfl

theorem SplitEnd.push_eq_slices {e : Slice} {r : SplitEnd} {l : List Slice} :
    r.push e = .slices l ↔ ∃ l', r = .slices l' ∧ l = e :: l' := by
  cases r <;> simp [SplitEnd.push, eq_comm]

theorem SplitEnd.push_eq_failed {e : Slice} {r : SplitEnd} {st : Status} {info : Word} :
    r.push e = .failed st info ↔ r = .failed st info := by
  cases r <;> simp [SplitEnd.push]

theorem SplitEnd.push_eq_endless {e : Slice} {r : SplitEnd} : r.push e = .endless ↔ r = .endless := by
  cases r <;> simp [SplitEnd.push]

theorem foldr_push_slices (l l' : List Slice) : l.foldr SplitEnd.push (.slices l') = .slices (l ++ l') := by
  induction l with
  | nil => rfl
  | cons e l ih => rw [List.foldr_cons, ih]; rfl

theorem foldr_push_failed (l : List Slice) (st : Status) (info : Word) :
    l.foldr SplitEnd.push (.failed st info) = .failed st info := by
  induction l with
  | nil => rfl
  | cons e l ih => rw [List.foldr_cons, ih]; rfl

/-- Whole reports have at least a byte each. -/
theorem length_le_joined {c : Config} {l : List Slice} (h : ∀ e ∈ l, GoodSlice c e) : l.length ≤ (joined l).length := by
  induction l with
  | nil => simp
  | cons e l ih =>
    obtain ⟨hid, -, -⟩ := h e (List.mem_cons_self ..)
    have hb : e.bytes ≠ [] := fun hb => by rw [hb] at hid; simp at hid
    have := List.length_pos_of_ne_nil hb
    have := ih (fun e he => h e (List.mem_cons_of_mem _ he))
    rw [joined_cons, List.length_append, List.length_cons]
    omega

/-- The loop fails only with the three statuses of R124. -/
theorem splitLoop_failed {c : Config} {fuel off d : Nat} {rest : Bytes} {st : Status} {info : Word}
    (h : splitLoop c fuel off d rest = .failed st info) : st = .unknownReport ∨ st = .batchFraming ∨ st = .stackOverflow := by
  fun_induction splitLoop c fuel off d rest <;> simp_all [SplitEnd.push_eq_failed]

/-- Under a legal configuration a pass for each byte is enough (R132). -/
theorem splitLoop_ends {c : Config} (hc : Legal c) {fuel off d : Nat} {rest : Bytes} (hf : rest.length ≤ fuel) :
    splitLoop c fuel off d rest ≠ .endless := by
  fun_induction splitLoop c fuel off d rest with
  | case1 => simp
  | case2 => simp at hf
  | case3 => simp
  | case4 => simp
  | case5 => simp
  | case6 fuel off d id tail n hn hlen hd ih =>
    have hb := lookupLen_bounds hc hn
    rw [ne_eq, SplitEnd.push_eq_endless]
    refine ih ?_
    simp only [List.length_drop, List.length_cons] at hf ⊢
    omega

/-- What the loop answers when it answers with slices: they are whole reports and concatenate to the bytes (R130). -/
theorem splitLoop_slices {c : Config} (hc : Legal c) {fuel off d : Nat} {rest : Bytes} {l : List Slice}
    (h : splitLoop c fuel off d rest = .slices l) : joined l = rest ∧ ∀ e ∈ l, GoodSlice c e := by
  fun_induction splitLoop c fuel off d rest generalizing l with
  | case1 => simp_all [SplitEnd.slices.injEq]
  | case2 => simp at h
  | case3 => simp at h
  | case4 => simp at h
  | case5 => simp at h
  | case6 fuel off d id tail n hn hlen hd ih =>
    obtain ⟨l', hl', rfl⟩ := SplitEnd.push_eq_slices.1 h
    obtain ⟨hj, hg⟩ := ih hl'
    obtain ⟨h1, -, h2⟩ := lookupLen_bounds hc hn
    obtain ⟨m, rfl⟩ : ∃ m, n = m + 1 := ⟨n - 1, by omega⟩
    have hlt : (List.take (m + 1) (id :: tail)).length = m + 1 := by rw [List.length_take]; omega
    refine ⟨by rw [joined_cons, hj, List.take_append_drop], ?_⟩
    rintro e (_ | ⟨_, he⟩)
    · refine ⟨by simp, by rw [hlt]; exact hn, ?_⟩
      rw [hlt, BitVec.toNat_ofNat]
      omega
    · exact hg e he

/-- The loop passes over whole reports: with room for them it goes on behind them, having cut exactly those slices. -/
theorem splitLoop_append {c : Config} {l : List Slice} (hl : ∀ e ∈ l, GoodSlice c e) {fuel off d : Nat} {rest : Bytes}
    (hf : l.length ≤ fuel) (hroom : ∀ n, c.stackDepth = some n → d + l.length ≤ n) :
    splitLoop c fuel off d (joined l ++ rest) =
      l.foldr SplitEnd.push (splitLoop c (fuel - l.length) (off + (joined l).length) (d + l.length) rest) := by
  induction l generalizing fuel off d with
  | nil => simp
  | cons e l ih =>
    obtain ⟨hid, hn, hlen⟩ := hl e (List.mem_cons_self ..)
    obtain ⟨fuel, rfl⟩ : ∃ f, fuel = f + 1 := ⟨fuel - 1, by simp at hf; omega⟩
    obtain ⟨eid, elen, eb⟩ := e
    obtain ⟨tail, rfl⟩ : ∃ tail, eb = eid :: tail := by
      cases eb with
      | nil => simp at hid
      | cons b tail => simp at hid; exact ⟨tail, by rw [hid]⟩
    have hd : c.stackDepth ≠ some d := fun h => by
      have := hroom d h
      simp at this
    have hle : BitVec.ofNat 8 (eid :: tail).length = elen := by
      simp only at hlen
      rw [← hlen, BitVec.ofNat_toNat, BitVec.setWidth_eq]
    have hstep := ih (fun e he => hl e (List.mem_cons_of_mem _ he)) (fuel := fuel)
      (off := off + (eid :: tail).length) (d := d + 1) (by simpa using hf)
      (fun n h => by have := hroom n h; simp at this; omega)
    simp only at hn
    have htake : List.take (eid :: tail).length (eid :: (tail ++ (joined l ++ rest))) = eid :: tail := by
      rw [← List.cons_append, List.take_left]
    have hdrop : List.drop (eid :: tail).length (eid :: (tail ++ (joined l ++ rest))) = joined l ++ rest := by
      rw [← List.cons_append, List.drop_left]
    have hshort : ¬ (eid :: (tail ++ (joined l ++ rest))).length < (eid :: tail).length := by simp
    simp only [joined_cons, List.cons_append, List.append_assoc, List.foldr_cons]
    rw [splitLoop, hn]
    simp only [hshort, hd, if_false, htake, hdrop, hle, hstep]
    simp only [List.length_cons, List.length_append]
    congr 3 <;> omega

/-! ### The invariant through an operation's ending -/

/-- The response is no part of the invariant. -/
theorem Inv.withRsp {s : State} (h : Inv s) (r : Response) : Inv { s with rsp := r } :=
  ⟨h.legal, h.hdr, h.pktLen, h.pktVal, h.pktNil, h.slices, h.depth, h.txp, h.cmdSeq, h.rsp, h.err⟩

/-- The requests are no part of the invariant. -/
theorem Inv.withRequests {s : State} (h : Inv s) (l : List Request) : Inv { s with requests := l } :=
  ⟨h.legal, h.hdr, h.pktLen, h.pktVal, h.pktNil, h.slices, h.depth, h.txp, h.cmdSeq, h.rsp, h.err⟩

/-- The error record stays well formed under any status a stateful operation ends with. -/
theorem Inv.recordError {s : State} (h : Inv s) {st : Status} (hb : st ≠ .badReg) : Inv (recordError st s) := by
  by_cases hok : st = .ok
  · rw [hok]; exact h
  rw [recordError_of_ne hok]
  obtain ⟨⟨h0, h13, h15⟩, -, -⟩ := h.err
  have hset : (s.errSeen ||| errBit st).getLsbD (statusCode st).toNat = true := by
    rw [BitVec.getLsbD_or, errBit_getLsbD, decide_eq_true rfl, Bool.or_true]
  have hcode : statusCode st ≠ 0#8 := by cases st <;> first | decide | exact absurd rfl hok
  refine ⟨h.legal, h.hdr, h.pktLen, h.pktVal, h.pktNil, h.slices, h.depth, h.txp, h.cmdSeq, h.rsp, ⟨?_, ?_, fun _ => hset⟩⟩
  · simp only [BitVec.getLsbD_or, errBit_getLsbD, h0, h13, h15, Bool.false_or, decide_eq_false_iff_not]
    cases st <;> first | decide | exact absurd rfl hok | exact absurd rfl hb
  · refine ⟨fun hc => absurd hc hcode, fun hz => ?_⟩
    change s.errSeen ||| errBit st = 0#16 at hz
    rw [hz] at hset
    simp at hset

end Sys2Proof.Machine
end

