-- ==== Sys2Proof/Machine/Assembler.lean ====
section
/-! DEFINITION. The assembler syntax of a request (30_encoding.md R75): a mnemonic, then operands `field=value` separated
by commas, a number in decimal or `0x` hexadecimal, a byte string as hex bytes between brackets. An operand not
written takes the value 0 or the empty string. DESIGN CHOICE wherever R75 leaves the text open: what is accepted beside
its examples and what is no request is listed in notes/assumptions/9.md. -/

namespace Sys2Proof.Machine

/-- The value of a digit in the given base. DESIGN CHOICE: a hex digit may be of either case (notes/assumptions/9.md). -/
def digit? (base : Nat) (c : Char) : Option Nat :=
  let n := c.toNat
  let v := if 48 ≤ n ∧ n ≤ 57 then n - 48 else if 65 ≤ n ∧ n ≤ 70 then n - 55 else if 97 ≤ n ∧ n ≤ 102 then n - 87 else base
  if v < base then some v else none

/-- The digits of a number, most significant first, after those already read. -/
def digitsFrom (base : Nat) : Nat → List Char → Option Nat
  | acc, [] => some acc
  | acc, c :: rest => (digit? base c).bind fun v => digitsFrom base (acc * base + v) rest

/-- A number of at least one digit. DESIGN CHOICE: leading zeros are allowed (notes/assumptions/9.md). -/
def digits? (base : Nat) (cs : List Char) : Option Nat := if cs = [] then none else digitsFrom base 0 cs

/-- A number: decimal or `0x` hexadecimal. -/
def number? (cs : List Char) : Option Nat :=
  if cs.take 2 = ['0', 'x'] then digits? 16 (cs.drop 2) else digits? 10 cs

/-- A number that fits `w` bits. DESIGN CHOICE: a larger one is no operand (notes/assumptions/9.md). -/
def field? (w : Nat) (cs : List Char) : Option (BitVec w) :=
  (number? cs).bind fun n => if n < 2 ^ w then some (BitVec.ofNat w n) else none

/-- The pieces of a text between separators. -/
def pieces (sep : Char) : List Char → List (List Char)
  | [] => [[]]
  | c :: rest =>
    match pieces sep rest with
    | [] => [[]]
    | p :: ps => if c = sep then [] :: p :: ps else (c :: p) :: ps

/-- A text without the spaces at its two ends. DESIGN CHOICE: they have no meaning there (notes/assumptions/9.md). -/
def trimmed (cs : List Char) : List Char :=
  ((cs.dropWhile (· = ' ')).reverse.dropWhile (· = ' ')).reverse

/-- One hex byte, the `0x` left off. DESIGN CHOICE: R75 does not say how many digits it has; any number of them is accepted
whose value is below 256, so one digit, or more than two with leading zeros (notes/assumptions/9.md). -/
def hexByte? (cs : List Char) : Option Byte :=
  (digits? 16 cs).bind fun n => if n < 256 then some (BitVec.ofNat 8 n) else none

/-- A byte string: `[`, hex bytes separated by spaces, `]`. DESIGN CHOICE: several spaces in a row separate as one does
(notes/assumptions/9.md). -/
def byteString? (cs : List Char) : Option Bytes :=
  if cs.take 1 = ['['] ∧ cs.getLast? = some ']' ∧ 2 ≤ cs.length then
    ((pieces ' ' (cs.drop 1).dropLast).filter (· ≠ [])).mapM hexByte?
  else none

/-- Write one operand into a request. DESIGN CHOICE: `op`, though a field of R70, is no operand, since the mnemonic gives it;
and a field that the operation does not read may be written (notes/assumptions/9.md). -/
def setField (name value : List Char) (r : Request) : Option Request :=
  if name = ['c', 'h'] then (field? 8 value).map fun v => { r with ch := v }
  else if name = ['s', 'e', 'q'] then (field? 8 value).map fun v => { r with seq := v }
  else if name = ['b', 'y', 't', 'e', 's'] then (byteString? value).map fun v => { r with bytes := v }
  else if name = ['o', 'k'] then (field? 1 value).map fun v => { r with ok := v == 1#1 }
  else if name = ['i', 'd'] then (field? 8 value).map fun v => { r with id := v }
  else if name = ['c', 'm', 'd'] then (field? 8 value).map fun v => { r with cmd := v }
  else if name = ['p', 'a', 'r', 'a', 'm', 's'] then (byteString? value).map fun v => { r with params := v }
  else if name = ['n', 'o', 'w'] then (field? 32 value).map fun v => { r with now := v }
  else if name = ['r', 'e', 'g'] then (field? 16 value).map fun v => { r with reg := v }
  else none

/-- Write the operands, in whatever order they stand. DESIGN CHOICE: none of them twice (notes/assumptions/9.md). -/
def setFields : List (List Char) → List (List Char) → Request → Option Request
  | [], _, r => some r
  | o :: rest, seen, r =>
    let name := trimmed (o.takeWhile (· ≠ '='))
    let value := trimmed ((o.dropWhile (· ≠ '=')).drop 1)
    if name ∈ seen then none else (setField name value r).bind (setFields rest (name :: seen))

/-- The opcode of a mnemonic. The reserved opcodes have no assembler name (R73). -/
def opcodeOf (m : List Char) : Option Byte :=
  (opcodeRows.find? fun row => row.mnemonic ≠ "RESERVED" ∧ row.mnemonic.toList = m).map OpRow.pattern

/-- The request a line of assembler text stands for. -/
def assembleChars (line : List Char) : Option Request :=
  let text := trimmed line
  let operands := trimmed (text.dropWhile (· ≠ ' '))
  (opcodeOf (text.takeWhile (· ≠ ' '))).bind fun op =>
    if operands = [] then some { op := op } else setFields (pieces ',' operands) [] { op := op }

/-- The request a line of assembler text stands for (R75). -/
def assemble (line : String) : Option Request := assembleChars line.toList

end Sys2Proof.Machine
end

