-- ==== Sys2Proof/Tests/Slice0.lean ====
section
/-! SUPPORT. Tests. Expected values are those of spec/95_test_vectors.md (the vector is named beside each test) or of the
rule named, worked by hand. The last part holds, for each statement of Certificates/Slice0/Obligations.lean that has
hypotheses, a state and operands that meet them, each clause at a boundary of its range. -/

namespace Sys2Proof.Tests

open Sys2Proof.Machine

/-- The state an operation leaves. -/
def ran (i : Instr) (s : State) : State :=
  match exec i s with
  | .next t => t
  | .fault _ => State.resetWith { s.cfg with reportLenMax := 0 }
  | .refused _ => State.resetWith { s.cfg with reportLenMax := 0 }

/-- The state a list of operations leaves, from reset. -/
def ranAll (l : List Instr) : State := l.foldl (fun s i => ran i s) State.reset

/-- The reset state under a configuration. -/
abbrev under (c : Config) : State := State.resetWith c

/-- The reference configuration with `ALLONES_MODE` = MASKED. -/
abbrev maskedCfg : Config := { Config.reference with allOnesMode := .masked }

/-- The reference configuration with `STACK_DEPTH` = 2 (vector S9). -/
abbrev depth2Cfg : Config := { Config.reference with stackDepth := some 2 }

/-! ### Decoding: the words of R73 and R74, written out -/

theorem test_decode_control :
    decode { op := 0b00000001#8 } = .reset ∧ decode { op := 0b00001100#8, reg := 0x0061#16 } = .regRead 0x0061#16 := by decide

theorem test_decode_codec :
    decode { op := 0b00000010#8, bytes := [1#8] } = .hdrDecode [1#8] ∧
    decode { op := 0b00000011#8, ch := 1#8, seq := 2#8, bytes := [3#8] } = .hdrEncode 1#8 2#8 [3#8] := by decide

theorem test_decode_sequencer :
    decode { op := 0b00000100#8, ch := 5#8, bytes := [7#8] } = .txFrame 5#8 [7#8] ∧
    decode { op := 0b00000101#8, ok := true } = .txCommit true ∧
    decode { op := 0b00000110#8, bytes := [4#8, 0#8] } = .rxFrame [4#8, 0#8] := by decide

theorem test_decode_splitter :
    decode { op := 0b00000111#8, id := 0xF1#8 } = .lenLookup 0xF1#8 ∧ decode { op := 0b00001000#8 } = .split ∧
    decode { op := 0b00001001#8 } = .popSlice := by decide

theorem test_decode_correlator :
    decode { op := 0b00001010#8, cmd := 6#8, params := [1#8, 2#8] } = .cmdIssue 6#8 [1#8, 2#8] ∧
    decode { op := 0b00001011#8, bytes := [0xF1#8], now := 5000#32 } = .cmdResponse [0xF1#8] 5000#32 := by decide

theorem test_decode_reserved :
    decode { op := 0b00000000#8 } = .reserved 0x00#8 ∧ decode { op := 0b00001101#8 } = .reserved 0x0D#8 ∧
    decode { op := 0b11111111#8 } = .reserved 0xFF#8 := by decide

/-- Every row of the opcode table: its pattern decodes to its mnemonic. -/
theorem test_decode_table_rows :
    opcodeRows.all (fun row => (decodeTableWord 8 row.pattern.toNat).map Instr.mnemonic == some row.mnemonic) = true := by decide

theorem test_table_word_too_wide : decodeTableWord 8 256 = none ∧ decodeTableWord 16 1 = none := by decide

/-! ### Well-formedness -/

theorem test_wf_refuses_operation_as_reserved :
    (Instr.reserved 0x01#8).wf = false ∧ (Instr.reserved 0x0C#8).wf = false := by decide

theorem test_wf_accepts_reserved :
    (Instr.reserved 0x00#8).wf = true ∧ (Instr.reserved 0x0D#8).wf = true ∧ (Instr.reserved 0xFF#8).wf = true := by decide

theorem test_legal_reference : Legal Config.reference ∧ Legal maskedCfg ∧ Legal depth2Cfg := by decide

theorem test_legal_unbounded : Legal { Config.reference with stackDepth := none } := by decide

/-- R9 (a): a length of 0. -/
theorem test_illegal_zero_length : ¬Legal { Config.reference with sensorLen := [⟨0x01#8, 0⟩] } := by decide

/-- R9 (b): `CONTROL_LEN[ID_CMD_RESP]` is not 16. -/
theorem test_illegal_response_length : ¬Legal { Config.reference with controlLen := [⟨0xF1#8, 15⟩] } := by decide

/-- R9 (c): `ID_CMD_RESP` below 0xF0. -/
theorem test_illegal_response_id :
    ¬Legal { Config.reference with idCmdResp := 0xEF#8, sensorLen := [⟨0xEF#8, 16⟩] } := by decide

/-- R9 (d): one code for both commands. -/
theorem test_illegal_equal_codes : ¬Legal { Config.reference with cmdSaveDcd := 0x07#8 } := by decide

/-- R9 (e): `ID_CMD_RESP` is the command request's id. -/
theorem test_illegal_response_is_request :
    ¬Legal { Config.reference with idCmdResp := 0xF2#8, controlLen := [⟨0xF2#8, 16⟩] } := by decide

/-- R9 (f): an entry above `REPORT_LEN_MAX`. -/
theorem test_illegal_long_entry : ¬Legal { Config.reference with sensorLen := [⟨0x01#8, 18⟩] } := by decide

/-- R8: `REPORT_LEN_MAX` outside 16..255, `STACK_DEPTH` = 0, and ids outside their sub-table. -/
theorem test_illegal_ranges :
    ¬Legal { Config.reference with reportLenMax := 256 } ∧ ¬Legal { Config.reference with stackDepth := some 0 } ∧
    ¬Legal { Config.reference with sensorLen := [⟨0xF0#8, 5⟩] } ∧
    ¬Legal { Config.reference with controlLen := [⟨0xEF#8, 5⟩, ⟨0xF1#8, 16⟩] } := ⟨by decide, by decide, by decide, by decide⟩

/-- A table lists its ids in rising order, each once. -/
theorem test_illegal_table_order :
    ¬Legal { Config.reference with sensorLen := [⟨0x02#8, 10⟩, ⟨0x01#8, 10⟩] } ∧
    ¬Legal { Config.reference with sensorLen := [⟨0x01#8, 10⟩, ⟨0x01#8, 12⟩] } := by decide

/-! ### The step -/

/-- The first step after reset runs the word placed; here 0xFF, vector CT4. -/
theorem test_step_runs_placed_word :
    ∃ t, step (State.reset.withFetchWord 8 0xFF) = .next t ∧
      (t.rsp.status, t.rsp.info, t.errSeen, t.lastErr) = (.illegalOp, 0xFF#32, 0x4000#16, 0x0E#8) := ⟨_, rfl, by decide⟩

/-- Two requests: the second step runs the second one (R58). -/
theorem test_requests_run_in_order :
    ∃ t, Host.Core.run core 2 { State.reset with requests := [encode (.txFrame 1#8 [1#8]), encode (.txCommit true)] } = .next t ∧
      t.seq[1] = 1#8 ∧ t.requests = [] := ⟨_, rfl, by decide, by decide⟩

/-! ### Packet codec -/

/-- W1, HD1, HD2, HD10, HD13. -/
theorem test_hdr_decode_classes :
    (ran (.hdrDecode [0x14#8, 0x00#8, 0x02#8, 0x05#8]) State.reset).rsp.hdr = ⟨20#15, false, 2#8, 5#8, 16#16, .valid⟩ ∧
    (ran (.hdrDecode [0x00#8, 0x00#8, 0x00#8, 0x00#8]) State.reset).rsp.hdr = ⟨0#15, false, 0#8, 0#8, 0#16, .empty⟩ ∧
    (ran (.hdrDecode [0x00#8, 0x80#8, 0x03#8, 0x01#8]) State.reset).rsp.hdr = ⟨0#15, true, 3#8, 1#8, 0#16, .empty⟩ ∧
    (ran (.hdrDecode [0x00#8, 0x00#8, 0x06#8, 0x00#8]) State.reset).rsp.hdr = ⟨0#15, false, 6#8, 0#8, 0#16, .error⟩ ∧
    (ran (.hdrDecode [0x01#8, 0x00#8, 0xFF#8, 0x00#8]) State.reset).rsp.hdr = ⟨1#15, false, 0xFF#8, 0#8, 0#16, .error⟩ := by decide

/-- HD5, HD6, HD7, HD8, HD14. -/
theorem test_hdr_decode_all_ones :
    (ran (.hdrDecode [0xFF#8, 0xFF#8, 0x02#8, 0xFF#8]) State.reset).rsp.hdr = ⟨0x7FFF#15, true, 2#8, 0xFF#8, 0x7FFB#16, .error⟩ ∧
    (ran (.hdrDecode [0xFF#8, 0xFF#8, 0x02#8, 0xFF#8]) (under maskedCfg)).rsp.hdr = ⟨0x7FFF#15, true, 2#8, 0xFF#8, 0x7FFB#16, .valid⟩ ∧
    (ran (.hdrDecode [0xFF#8, 0xFF#8, 0x02#8, 0xFE#8]) State.reset).rsp.hdr = ⟨0x7FFF#15, true, 2#8, 0xFE#8, 0x7FFB#16, .valid⟩ ∧
    (ran (.hdrDecode [0xFF#8, 0x7F#8, 0x02#8, 0xFF#8]) State.reset).rsp.hdr = ⟨0x7FFF#15, false, 2#8, 0xFF#8, 0x7FFB#16, .valid⟩ ∧
    ran (.hdrDecode [0x14#8, 0x00#8, 0x02#8]) State.reset = { State.reset with rsp := { status := .rxShort, info := 3#32 } } :=
  ⟨by decide, by decide, by decide, by decide, rfl⟩

/-- HE2, W4. -/
theorem test_hdr_encode_frame :
    (ran (.hdrEncode 5#8 0xFF#8 [0xAA#8]) State.reset).rsp.bytes = [0x05#8, 0x00#8, 0x05#8, 0xFF#8, 0xAA#8] ∧
    (ran (.hdrEncode 3#8 0x2A#8 [1#8, 2#8, 3#8]) State.reset).rsp.bytes = [0x07#8, 0x00#8, 0x03#8, 0x2A#8, 1#8, 2#8, 3#8] := by decide

/-- HE3: no error record, the operation is pure. -/
theorem test_hdr_encode_bad_channel :
    ran (.hdrEncode 6#8 0#8 []) State.reset = { State.reset with rsp := { status := .badChannel, info := 6#32 } } := rfl

/-! ### Channel sequencer -/

/-- W8, Q14. -/
theorem test_tx_frame :
    (ran (.txFrame 2#8 [0xF9#8, 0x00#8]) State.reset).rsp.bytes = [0x06#8, 0x00#8, 0x02#8, 0x00#8, 0xF9#8, 0x00#8] ∧
    regValue (ran (.txFrame 2#8 [0xF9#8, 0x00#8]) State.reset) 0x14 = some 0x00000201#32 ∧
    (ran (.txFrame 7#8 []) State.reset).rsp.info = 7#32 ∧ (ran (.txFrame 7#8 []) State.reset).errSeen = 0x0040#16 := by decide

/-- Q4: the counter wraps from 0xFF to 0x00. -/
theorem test_tx_commit_wraps :
    (ranAll [.rxFrame [0x04#8, 0x00#8, 0x03#8, 0xFF#8], .txFrame 3#8 []]).rsp.bytes = [0x04#8, 0x00#8, 0x03#8, 0xFF#8] ∧
    (ranAll [.rxFrame [0x04#8, 0x00#8, 0x03#8, 0xFF#8], .txFrame 3#8 [], .txCommit true]).seq[3] = 0x00#8 := by decide

/-- Q2, Q3, Q5. -/
theorem test_tx_commit_other_cases :
    (ran (.txCommit true) State.reset).errSeen = 0x1000#16 ∧ (ran (.txCommit true) State.reset).lastErr = 0x0C#8 ∧
    (ranAll [.txFrame 4#8 [], .txCommit false]).seq[4] = 0#8 ∧ (ranAll [.txFrame 4#8 [], .txCommit false]).txp = {} ∧
    (ranAll [.txFrame 2#8 [0xAA#8], .txFrame 4#8 [0xBB#8], .txCommit true]).seq.toList = [0#8, 0#8, 0#8, 0#8, 1#8, 0#8] := by decide

/-- Q10, Q16: bytes past the data length are ignored; HDR0 with the continuation flag. -/
theorem test_rx_frame_valid :
    (ran (.rxFrame [0x06#8, 0x00#8, 0x03#8, 0x07#8, 0xAA#8, 0xBB#8, 0xCC#8]) State.reset).pkt = [0xAA#8, 0xBB#8] ∧
    (ran (.rxFrame [0x06#8, 0x00#8, 0x03#8, 0x07#8, 0xAA#8, 0xBB#8, 0xCC#8]) State.reset).seq[3] = 7#8 ∧
    regValue (ran (.rxFrame [0x06#8, 0x80#8, 0x03#8, 0x01#8, 0xAA#8, 0xBB#8]) State.reset) 0x10 = some 0x00028006#32 := by decide

/-- W2, Q6, Q8, Q9: the error header, the empty header, and a frame too short for its header. -/
theorem test_rx_frame_refusals :
    (let t := ran (.rxFrame [0xFF#8, 0xFF#8, 0x07#8, 0xFF#8]) State.reset
     (t.rsp.status, t.rsp.info, regValue t 0x10, regValue t 0x11, t.errSeen, t.lastErr) =
      (.hdrError, 0x07#32, some 0x7FFBFFFF#32, some 0x0003FF07#32, 0x0002#16, 0x01#8)) ∧
    (let t := ran (.rxFrame [0x00#8, 0x00#8, 0x04#8, 0x09#8]) State.reset
     (t.rsp.status, t.seq[4], t.errSeen, t.lastErr) = (.framing, 9#8, 0x0004#16, 0x02#8)) ∧
    (let t := ran (.rxFrame [0xFF#8, 0xFF#8, 0x02#8, 0xFF#8]) (under maskedCfg)
     (t.rsp.status, t.rsp.info, t.rsp.hdr, t.hdr, t.errSeen) = (.rxShort, 4#32, {}, {}, 0x0200#16)) ∧
    (let t := ran (.rxFrame [0x08#8, 0x00#8, 0x03#8, 0x07#8, 0xAA#8, 0xBB#8]) State.reset
     (t.rsp.status, t.rsp.info, t.seq[3]) = (.rxShort, 6#32, 0#8)) := by decide

/-! ### Report batch splitter -/

/-- S1, S2, S3, S4, S6. -/
theorem test_len_lookup :
    ((ran (.lenLookup 0x11#8) State.reset).rsp.hit, (ran (.lenLookup 0x11#8) State.reset).rsp.len) = (true, 12#8) ∧
    (ran (.lenLookup 0x07#8) State.reset).rsp.hit = false ∧ (ran (.lenLookup 0xEF#8) State.reset).rsp.hit = false ∧
    (ran (.lenLookup 0xF0#8) State.reset).rsp.hit = false ∧ (ran (.lenLookup 0xFC#8) State.reset).rsp.len = 17#8 := by decide

/-- The two step-counter reports of W6. -/
abbrev repA : Bytes := [0x11#8, 0x01#8, 0x02#8, 0x03#8, 0x04#8, 0x05#8, 0x06#8, 0x07#8, 0x08#8, 0x09#8, 0x0A#8, 0x0B#8]
abbrev repB : Bytes := [0x11#8, 0x21#8, 0x22#8, 0x23#8, 0x24#8, 0x25#8, 0x26#8, 0x27#8, 0x28#8, 0x29#8, 0x2A#8, 0x2B#8]

/-- W6 through R76's RECEIVE: the two slices, the last wire report first. -/
theorem test_split_and_drain :
    (receive ([0x1C#8, 0x00#8, 0x03#8, 0x10#8] ++ repA ++ repB) State.reset).1.map
      (fun r => (r.valid, r.id, r.len, r.count, r.bytes)) =
      [(false, 0#8, 0#8, 0#16, []), (false, 0#8, 0#8, 2#16, []), (true, 0x11#8, 12#8, 0#16, repB), (true, 0x11#8, 12#8, 0#16, repA)] := by
  decide

/-- S9 (with `STACK_DEPTH` = 2), S10, W7: the three ways a SPLIT fails, with nothing pushed. -/
theorem test_split_failures :
    (let t := ran .split { under depth2Cfg with pkt := [0xFB#8, 0#8, 0#8, 0#8, 0#8, 0xFB#8, 0#8, 0#8, 0#8, 0#8, 0xFB#8, 0#8, 0#8, 0#8, 0#8] }
     (t.rsp.status, t.rsp.info, t.stk, t.errSeen) = (.stackOverflow, 0x0000000A#32, [], 0x0400#16)) ∧
    (let t := ran .split { State.reset with pkt := [0xFB#8, 0#8, 0#8, 0#8, 0#8, 0x07#8, 0#8] }
     (t.rsp.status, t.rsp.info, t.stk) = (.unknownReport, 0x00070005#32, [])) ∧
    (let t := ranAll [.rxFrame [0x0A#8, 0x00#8, 0x03#8, 0x00#8, 0x11#8, 1#8, 2#8, 3#8, 4#8, 5#8], .split]
     (t.rsp.status, t.rsp.info, t.stk, t.errSeen, t.lastErr) = (.batchFraming, 0x0C110000#32, [], 0x0008#16, 0x03#8)) := by decide

/-- S7: a pop on an empty stack. S14: pops return the newer batch first. -/
theorem test_pop_slice :
    ran .popSlice State.reset = State.reset ∧
    (let s := { State.reset with stk := [⟨0xFB#8, 5#8, [0xFB#8, 1#8, 2#8, 3#8, 4#8]⟩, ⟨0x11#8, 12#8, repA⟩] }
     (ran .popSlice s).rsp.bytes = repA ∧ (ran .popSlice (ran .popSlice s)).rsp.id = 0xFB#8) := ⟨rfl, rfl, rfl⟩

/-! ### Command correlator -/

/-- W9, M3. -/
theorem test_cmd_issue :
    (ran (.cmdIssue 0x07#8 [1#8, 1#8, 1#8]) State.reset).rsp.bytes =
      [0x10#8, 0x00#8, 0x02#8, 0x00#8, 0xF2#8, 0x00#8, 0x07#8, 1#8, 1#8, 1#8, 0#8, 0#8, 0#8, 0#8, 0#8, 0#8] ∧
    regValue (ran (.cmdIssue 0x07#8 [1#8, 1#8, 1#8]) State.reset) 0x14 = some 0x00070203#32 ∧
    (let t := ran (.cmdIssue 0x0B#8 [0#8, 1#8, 2#8, 3#8, 4#8, 5#8, 6#8, 7#8, 8#8, 9#8]) State.reset
     (t.rsp.status, t.rsp.info, t.errSeen, t.txp) = (.tooManyParams, 10#32, 0x0100#16, {})) := by decide

/-- M1, M2: both counters move on the commit of a command. -/
theorem test_cmd_issue_commit :
    (let t := ranAll [.cmdIssue 0x07#8 [1#8, 1#8, 1#8], .txCommit true]
     (t.seq[2], regValue t 0x01F2, t.txp) = (1#8, some 1#32, {})) ∧
    (ranAll [.cmdIssue 0x07#8 [1#8, 1#8, 1#8], .txCommit true, .cmdIssue 0x07#8 []]).rsp.bytes =
      [0x10#8, 0x00#8, 0x02#8, 0x01#8, 0xF2#8, 0x01#8, 0x07#8, 0#8, 0#8, 0#8, 0#8, 0#8, 0#8, 0#8, 0#8, 0#8] := by decide

/-- The response of M5: command 0x07, status 0. -/
abbrev respMe : Bytes := [0xF1#8, 0#8, 0x07#8, 0#8, 0#8, 0#8, 0#8, 0#8, 0#8, 0#8, 0#8, 0#8, 0#8, 0#8, 0#8, 0#8]

/-- The response of M8: command 0x06, status 1. -/
abbrev respDcdFailed : Bytes := [0xF1#8, 0#8, 0x06#8, 0#8, 0#8, 1#8, 0#8, 0#8, 0#8, 0#8, 0#8, 0#8, 0#8, 0#8, 0#8, 0#8]

/-- M5, M6, M12. -/
theorem test_cmd_response_me_latch :
    (let t := ranAll [.cmdResponse respMe 1000#32, .cmdResponse respMe 2000#32]
     (t.rsp.status, t.meValid, t.meTs, t.rspLatch.command) = (.ok, true, 1000#32, 7#8)) ∧
    (let t := ranAll [.cmdResponse respMe 1000#32, .cmdIssue 7#8 [], .txCommit false, .cmdIssue 7#8 [], .txCommit true]
     (t.meValid, t.meTs) = (false, 1000#32)) := by decide

/-- M8, M9, M10. -/
theorem test_cmd_response_failures :
    (let t := ran (.cmdResponse respDcdFailed 5#32) State.reset
     (t.rsp.status, t.rsp.info, t.rsp.value, t.rspLatch.valid, t.rspLatch.r.toList.head?, t.dcdValid, t.errSeen, t.lastErr) =
      (.calSaveFailed, 1#32, 1#32, true, some 1#8, false, 0x0020#16, 0x05#8)) ∧
    (let t := ran (.cmdResponse (respMe.take 15) 5#32) State.reset
     (t.rsp.status, t.rsp.info, t.rspLatch) = (.badResponse, 15#32, {})) ∧
    (ran (.cmdResponse (0xF8#8 :: respMe.drop 1) 5#32) State.reset).rsp.info = 0x00F80010#32 := ⟨rfl, rfl, rfl⟩

/-! ### Control -/

/-- CT1, CT2, CT6. -/
theorem test_reg_read :
    ran (.regRead 0x0006#16) State.reset = { State.reset with rsp := { status := .badReg, info := 6#32 } } ∧
    (ran (.regRead 0x0200#16) State.reset).rsp.info = 0x0200#32 ∧ (ran (.regRead 0x01FF#16) State.reset).rsp.status = .ok ∧
    (ran (.regRead 0x0011#16) State.reset).rsp.value = 0#32 := ⟨rfl, by decide, by decide, by decide⟩

/-- W1: the registers after a received frame. -/
theorem test_reg_read_after_rx :
    (let s := ran (.rxFrame ([0x14#8, 0x00#8, 0x02#8, 0x05#8] ++ respMe)) State.reset
     ((ran (.regRead 0x0010#16) s).rsp.value, (ran (.regRead 0x0011#16) s).rsp.value, (ran (.regRead 0x0002#16) s).rsp.value,
      (ran (.regRead 0x0012#16) s).rsp.value) = (0x00100014#32, 0x00010502#32, 5#32, 16#32)) := by decide

/-- CT5: RESET after Q6 and CT3. -/
theorem test_reset :
    ranAll [.rxFrame [0x00#8, 0x00#8, 0x04#8, 0x09#8], .reserved 0x00#8, .reset] = State.reset := rfl

/-- CT3. -/
theorem test_reserved :
    (let t := ran (.reserved 0x00#8) State.reset
     (t.rsp.status, t.rsp.info, t.errSeen, t.lastErr) = (.illegalOp, 0#32, 0x4000#16, 0x0E#8)) := by decide

/-- X1: the record is sticky. -/
theorem test_error_record :
    (let t := ranAll [.rxFrame [0x00#8, 0x00#8, 0x04#8, 0x09#8],
        .rxFrame [0x0A#8, 0x00#8, 0x03#8, 0x00#8, 0x11#8, 1#8, 2#8, 3#8, 4#8, 5#8], .split, .rxFrame [0x04#8, 0x00#8, 0x01#8, 0x00#8]]
     (t.errSeen, t.lastErr) = (0x000C#16, 0x03#8)) := by decide

/-! ### Assembler (the examples of R75) -/

theorem test_assemble_examples :
    assemble "TX_FRAME ch=2, bytes=[F9 00]" = some (encode (.txFrame 2#8 [0xF9#8, 0x00#8])) ∧
    assemble "TX_COMMIT ok=1" = some (encode (.txCommit true)) ∧ assemble "SPLIT" = some (encode .split) ∧
    assemble "CMD_ISSUE cmd=0x07, params=[01 01 01]" = some (encode (.cmdIssue 7#8 [1#8, 1#8, 1#8])) ∧
    assemble "REG_READ reg=0x0002" = some (encode (.regRead 2#16)) ∧
    assemble "HDR_ENCODE ch=0, seq=7, bytes=[]" = some (encode (.hdrEncode 0#8 7#8 [])) ∧
    assemble "CMD_RESPONSE bytes=[], now=1000" = some (encode (.cmdResponse [] 1000#32)) := by decide

theorem test_assemble_refuses :
    assemble "NOP" = none ∧ assemble "TX_COMMIT ok=2" = none ∧ assemble "LEN_LOOKUP id=1, id=2" = none := by decide

/-! ### Witnesses: the hypotheses of the statements can be met -/

theorem witness_DecodeOfEncodeIsIdentity :
    (Instr.reserved 0x00#8).wf = true ∧ (Instr.reserved 0x0D#8).wf = true ∧ (Instr.regRead 0xFFFF#16).wf = true := by decide

theorem witness_UnreadFieldsHaveNoEffect :
    SameReadFields { op := 0x08#8, ch := 1#8, bytes := [1#8] } { op := 0x08#8 } ∧
    SameReadFields { op := 0x0C#8, reg := 2#16, id := 9#8 } { op := 0x0C#8, reg := 2#16 } := by
  constructor <;> simp [SameReadFields]

theorem witness_StepRunsTheNextRequest :
    Legal { State.reset with requests := [{ op := 0x08#8 }] }.cfg ∧
    { State.reset with requests := [{ op := 0x08#8 }] }.requests = ({ op := 0x08#8 } : Request) :: [] := by decide

theorem witness_IdleStepKeepsAllState : Legal State.reset.cfg ∧ State.reset.requests = [] := by decide

/-- One state for each of (a), (b), (c), (d), (e), (f), at the boundary of its range. -/
theorem witness_IllegalConfigurationIsRefused :
    lookupLen (under { Config.reference with sensorLen := [⟨0x01#8, 0⟩] }).cfg 0x01#8 = some 0 ∧
    (let c := (under { Config.reference with controlLen := [⟨0xF1#8, 15⟩] }).cfg; lookupLen c c.idCmdResp ≠ some 16) ∧
    (under { Config.reference with idCmdResp := 0xEF#8 }).cfg.idCmdResp.toNat < 0xF0 ∧
    (let c := (under { Config.reference with cmdSaveDcd := 0x07#8 }).cfg; c.cmdMeCalibrate = c.cmdSaveDcd) ∧
    (under { Config.reference with idCmdResp := 0xF2#8 }).cfg.idCmdResp = 0xF2#8 ∧
    (let c := (under { Config.reference with sensorLen := [⟨0x01#8, 18⟩] }).cfg
     lookupLen c 0x01#8 = some 18 ∧ c.reportLenMax < 18) := by decide

theorem witness_Legal : Legal State.reset.cfg ∧ Legal (under maskedCfg).cfg := by decide

/-- ILLEGAL_OP, then a REG_READ of `LAST_ERR`, which still runs, and one step more than there are requests. -/
theorem witness_BlockGoesOnAfterAnyStatus :
    let s := { State.reset with requests := [{ op := 0x00#8 }, { op := 0x0C#8, reg := 0x0061#16 }] }
    Legal s.cfg ∧ ∃ t, Host.Core.run core 3 s = .next t ∧ t.requests = [] ∧ t.rsp.value = 0x0E#32 :=
  ⟨by decide, _, rfl, rfl, rfl⟩

theorem witness_ConfigurationNeverChanges :
    (∃ t, step { State.reset with requests := [{ op := 0x01#8 }] } = .next t) ∧
    ∃ t, exec (.rxFrame [0x04#8, 0x00#8, 0x05#8, 0xFF#8]) State.reset = .next t := ⟨⟨_, rfl⟩, _, rfl⟩

/-- The reset state, about to run RX_FRAME. -/
theorem witness_StepKeepsInvariant :
    Inv State.reset ∧ ∃ t, step (State.reset.withFetchWord 8 0x06) = .next t := by
  refine ⟨⟨by decide, ⟨rfl, fun _ => rfl, by decide, by decide⟩, by decide, by decide, fun _ => rfl, nofun, ?_,
    ⟨fun _ => rfl, by decide, by decide⟩, ?_, by decide, ⟨by decide, by decide, by decide⟩⟩, _, rfl⟩
  · intro d _
    exact Nat.zero_le d
  · intro id _
    simp [State.reset, State.resetWith, readCmdSeq]

theorem witness_HdrDecodeResult : ([] : Bytes).length < 4 ∧ ([1#8, 2#8, 3#8] : Bytes).length < 4 := by decide

theorem witness_HdrEncodeResult :
    ((5#8).toNat ≤ 5 ∧ (List.replicate 0x7FFB 0#8).length ≤ 0x7FFB) ∧ 5 < (6#8 : Byte).toNat ∧
    ((0#8).toNat ≤ 5 ∧ 0x7FFB < (List.replicate 0x7FFC 0#8).length ∧ (List.replicate 0x7FFC 0#8).length < 2 ^ 32) := by
  simp only [List.length_replicate]
  decide

theorem witness_EncodedFrameDecodesBack :
    (5#8).toNat ≤ 5 ∧ (List.replicate 0x7FFB 0#8).length ≤ 0x7FFB ∧ ([] : Bytes).length ≤ 0x7FFB := by
  simp only [List.length_replicate]
  decide

/-- The excluded count word is met on a channel out of range, under MASKED, and with the flag clear elsewhere. -/
theorem witness_ContinuationFlagIsIgnored :
    (¬(State.reset.cfg.allOnesMode = .raw ∧ 0xFF#8 = 0xFF#8 ∧ 0x7F#8 ||| 0x80#8 = 0xFF#8 ∧ (6#8).toNat ≤ 5 ∧ 0xFF#8 = 0xFF#8) ∧
      ∃ t, exec (.rxFrame (0xFF#8 :: 0x7F#8 :: 6#8 :: 0xFF#8 :: [])) State.reset = .next t) ∧
    (¬((under maskedCfg).cfg.allOnesMode = .raw ∧ 0xFF#8 = 0xFF#8 ∧ 0x7F#8 ||| 0x80#8 = 0xFF#8 ∧ (5#8).toNat ≤ 5 ∧ 0xFF#8 = 0xFF#8) ∧
      ∃ t, exec (.rxFrame (0xFF#8 :: 0x7F#8 :: 5#8 :: 0xFF#8 :: [])) (under maskedCfg) = .next t) ∧
    ∃ t, exec (.rxFrame (0x05#8 :: 0x00#8 :: 5#8 :: 0xFF#8 :: [0x01#8])) State.reset = .next t ∧ t.rsp.status = .ok :=
  ⟨⟨by decide, _, rfl⟩, ⟨by decide, _, rfl⟩, _, rfl, rfl⟩

theorem witness_TxFrameResult :
    ((5 : Channel).val = (5#8 : Byte).toNat ∧ (0 : Channel).val = (0#8 : Byte).toNat ∧ (List.replicate 0x7FFB 0#8).length ≤ 0x7FFB) ∧
    5 < (6#8 : Byte).toNat ∧ ((5#8 : Byte).toNat ≤ 5 ∧ 0x7FFB < (List.replicate 0x7FFC 0#8).length) := by
  simp only [List.length_replicate]
  decide

theorem witness_TxCommitResult :
    ((ran (.txFrame 5#8 []) State.reset).txp.valid = true ∧ (ran (.txFrame 5#8 []) State.reset).txp.cmd = false) ∧
    ((ran (.cmdIssue 7#8 []) State.reset).txp.valid = true ∧ (ran (.cmdIssue 7#8 []) State.reset).txp.cmd = true) ∧
    State.reset.txp.valid = false := by decide

/-- One frame for each clause: the longest too short for a header, an error, an empty and two valid headers, the short
frame one byte short, the whole one exact. -/
theorem witness_RxFrameResult :
    ([1#8, 2#8, 3#8] : Bytes).length < 4 ∧
    (decodeHeader .raw 0x04#8 0x00#8 6#8 0#8).cls = .error ∧
    ((decodeHeader .raw 0x00#8 0x80#8 5#8 0#8).cls = .empty ∧ (5 : Channel).val = (5#8 : Byte).toNat) ∧
    ((decodeHeader .raw 0x05#8 0x00#8 5#8 0#8).cls = .valid ∧ ([] : Bytes).length < (decodeHeader .raw 0x05#8 0x00#8 5#8 0#8).dlen.toNat) ∧
    ((decodeHeader .raw 0x05#8 0x00#8 0#8 0#8).cls = .valid ∧ (decodeHeader .raw 0x05#8 0x00#8 0#8 0#8).dlen.toNat ≤ ([1#8] : Bytes).length ∧
      (0 : Channel).val = (0#8 : Byte).toNat) := by decide

theorem witness_ReceivedSequenceIsMirroredUnchecked :
    State.reset.cfg = { State.reset with seq := Vector.replicate 6 9#8 }.cfg ∧
    (∃ t, exec (.rxFrame [0x04#8, 0x00#8, 0x05#8, 0x10#8]) State.reset = .next t ∧ t.rsp.status = .ok) ∧
    (∃ t, exec (.rxFrame [0x00#8, 0x00#8, 0x00#8, 0x10#8]) State.reset = .next t ∧ t.rsp.status = .framing) ∧
    ∃ t, exec (.rxFrame [0xFF#8, 0xFF#8, 0x07#8, 0xFF#8]) State.reset = .next t ∧ t.rsp.status ≠ .ok ∧ t.rsp.status ≠ .framing :=
  ⟨rfl, ⟨_, rfl, rfl⟩, ⟨_, rfl, rfl⟩, _, rfl, by decide, by decide⟩

theorem witness_NextFrameCarriesTheMirroredSequence :
    (∃ t, exec (.rxFrame [0x04#8, 0x00#8, 0x05#8, 0xFF#8]) State.reset = .next t ∧ t.rsp.status = .ok) ∧
    (List.replicate 0x7FFB 0#8).length ≤ 0x7FFB := ⟨⟨_, rfl, rfl⟩, by simp only [List.length_replicate, le_refl]⟩

theorem witness_AbandonedFrameLeavesNoTrace :
    (∃ t, exec (.cmdIssue 7#8 []) State.reset = .next t ∧ t.rsp.status = .ok) ∧
    ∃ u, exec (.txFrame 5#8 []) State.reset = .next u ∧ u.rsp.status = .ok := ⟨⟨_, rfl, rfl⟩, _, rfl, rfl⟩

/-- Q13. -/
theorem witness_CommitIncrementsTheCurrentValue :
    ∃ t u, exec (.txFrame 2#8 []) State.reset = .next t ∧ t.rsp.status = .ok ∧
      exec (.rxFrame [0x04#8, 0x00#8, 0x02#8, 0x40#8]) t = .next u ∧ u.rsp.status = .ok ∧ u.rsp.hdr.ch = 2#8 :=
  ⟨_, _, rfl, rfl, rfl, rfl, rfl⟩

theorem witness_CounterWrapsAfter256Sends :
    (List.replicate 256 ([0x01#8] : Bytes)).length = 256 ∧ ∀ p ∈ List.replicate 256 ([0x01#8] : Bytes), p.length ≤ 0x7FFB := by
  refine ⟨List.length_replicate .., fun p hp => ?_⟩
  rw [List.eq_of_mem_replicate hp]
  decide

theorem witness_LenLookupResult :
    Legal State.reset.cfg ∧
    ((⟨0x01#8, 10⟩ : LenRow) ∈ State.reset.cfg.sensorLen ∧ (⟨0xFC#8, 17⟩ : LenRow) ∈ State.reset.cfg.controlLen) ∧
    ∀ row, row ∈ State.reset.cfg.sensorLen ∨ row ∈ State.reset.cfg.controlLen → row.id ≠ 0xEF#8 := by
  refine ⟨by decide, by decide, ?_⟩
  rintro row (h | h) <;> revert row <;> decide

/-- The slices of W6. -/
abbrev slicesAB : List Slice := [⟨0x11#8, 12#8, repA⟩, ⟨0x11#8, 12#8, repB⟩]

theorem good_slicesAB : ∀ e ∈ slicesAB, GoodSlice State.reset.cfg e := by
  intro e he
  simp only [List.mem_cons, List.not_mem_nil, or_false] at he
  rcases he with rfl | rfl <;> exact ⟨rfl, by decide, rfl⟩

/-- Six entries on the stack of eight, and a packet. -/
abbrev sixDeep (p : Bytes) : State := { State.reset with stk := slicesAB ++ slicesAB ++ slicesAB, pkt := p }

theorem room_sixDeep (p : Bytes) : HasRoom (sixDeep p) slicesAB.length := by
  intro d hd
  have : d = 8 := (Option.some.inj hd).symm
  subst this
  exact Nat.le_refl 8

/-- W6's packet on the stack of eight that holds six: exactly full after it. -/
theorem witness_SplitPushesWholeReports :
    (∀ e ∈ slicesAB, GoodSlice (sixDeep (repA ++ repB)).cfg e) ∧ (sixDeep (repA ++ repB)).pkt = joined slicesAB ∧
    HasRoom (sixDeep (repA ++ repB)) slicesAB.length := ⟨good_slicesAB, rfl, room_sixDeep _⟩

/-- After W6's two reports: an unknown id, a report one byte short, and a whole report on a stack that is full. -/
theorem witness_SplitAbortsWholly :
    (let s := sixDeep (joined slicesAB ++ 0x07#8 :: [])
     (∀ e ∈ slicesAB, GoodSlice s.cfg e) ∧ s.pkt = joined slicesAB ++ 0x07#8 :: [] ∧ s.pkt.length ≤ 0x7FFB ∧
      HasRoom s slicesAB.length ∧ lookupLen s.cfg 0x07#8 = none) ∧
    (let s := sixDeep (joined slicesAB ++ 0xFB#8 :: [0#8, 0#8, 0#8])
     s.pkt = joined slicesAB ++ 0xFB#8 :: [0#8, 0#8, 0#8] ∧ s.pkt.length ≤ 0x7FFB ∧ HasRoom s slicesAB.length ∧
      lookupLen s.cfg 0xFB#8 = some 5 ∧ ([0#8, 0#8, 0#8] : Bytes).length + 1 < 5) ∧
    (let s := sixDeep (joined slicesAB ++ 0xFB#8 :: [0#8, 0#8, 0#8, 0#8])
     s.pkt = joined slicesAB ++ 0xFB#8 :: [0#8, 0#8, 0#8, 0#8] ∧ s.pkt.length ≤ 0x7FFB ∧ HasRoom s slicesAB.length ∧
      lookupLen s.cfg 0xFB#8 = some 5 ∧ 5 ≤ ([0#8, 0#8, 0#8, 0#8] : Bytes).length + 1 ∧
      s.cfg.stackDepth = some (s.stk.length + slicesAB.length)) :=
  ⟨⟨good_slicesAB, rfl, by decide, room_sixDeep _, rfl⟩, ⟨rfl, by decide, room_sixDeep _, rfl, by decide⟩,
    ⟨rfl, by decide, room_sixDeep _, rfl, by decide, rfl⟩⟩

/-- A SPLIT that returns OK, for the statements that start from one; the stack has room for the same slices again. -/
theorem witness_SplitReturnsOk :
    ∃ t, exec .split { State.reset with pkt := repA ++ repB } = .next t ∧ t.rsp.status = .ok ∧
      Legal State.reset.cfg ∧ HasRoom t (t.stk.length - State.reset.stk.length) := by
  refine ⟨_, rfl, rfl, by decide, ?_⟩
  intro d hd
  have : d = 8 := (Option.some.inj hd).symm
  subst this
  decide

theorem witness_PopSliceResult :
    { State.reset with stk := slicesAB }.stk = [⟨0x11#8, 12#8, repA⟩] ++ [⟨0x11#8, 12#8, repB⟩] ∧ State.reset.stk = [] := ⟨rfl, rfl⟩

theorem witness_ReceiveHandsOutTheBatch :
    (∃ t, exec (.rxFrame ([0x1C#8, 0x00#8, 0x03#8, 0x10#8] ++ repA ++ repB)) State.reset = .next t ∧ t.rsp.status = .ok ∧
      t.pkt = joined slicesAB ∧ HasRoom State.reset slicesAB.length) ∧
    ∃ t, exec (.rxFrame [0x00#8]) State.reset = .next t ∧ t.rsp.status ≠ .ok := by
  refine ⟨⟨_, rfl, rfl, rfl, ?_⟩, _, rfl, by decide⟩
  intro d hd
  have : d = 8 := (Option.some.inj hd).symm
  subst this
  decide

theorem witness_CmdIssueResult :
    (List.replicate 9 (0#8 : Byte)).length ≤ 9 ∧ 9 < (List.replicate 10 (0#8 : Byte)).length := by decide

theorem witness_CommandCarriesTwoIndependentSequences :
    (∃ t, exec (.cmdIssue 7#8 (List.replicate 9 0#8)) State.reset = .next t ∧ t.rsp.status = .ok) ∧
    ∃ t, exec (.txCommit true) (ran (.cmdIssue 7#8 []) State.reset) = .next t := ⟨⟨_, rfl, rfl⟩, _, rfl⟩

theorem witness_CommandSequenceHasOneWriter :
    (∃ t, exec (.txCommit true) (ran (.cmdIssue 7#8 []) State.reset) = .next t) ∧ Instr.txCommit true ≠ .reset := ⟨⟨_, rfl⟩, by decide⟩

theorem witness_CmdResponseResult :
    Legal State.reset.cfg ∧ true = (decide (0x06#8 = State.reset.cfg.cmdSaveDcd) && decide (1#8 ≠ 0#8)) ∧
    false = (decide (0x06#8 = State.reset.cfg.cmdSaveDcd) && decide (0#8 ≠ 0#8)) ∧
    false = (decide (0x07#8 = State.reset.cfg.cmdSaveDcd) && decide (1#8 ≠ 0#8)) := by decide

/-- One byte short, one byte long, the lengths on both sides of 16 bits, and another first byte. -/
theorem witness_CmdResponseRefusesOtherSlices :
    (List.replicate 15 (0#8 : Byte)).length ≠ 16 ∧ (List.replicate 17 (0#8 : Byte)).length ≠ 16 ∧
    (List.replicate 65535 (0#8 : Byte)).length ≠ 16 ∧
    ((List.replicate 65536 (0#8 : Byte)).length ≠ 16 ∧ (List.replicate 65536 (0#8 : Byte)).length < 2 ^ 32) ∧
    ((0xF2#8 :: respMe.drop 1).length = 16 ∧ (0xF2#8 :: respMe.drop 1).head? = some 0xF2#8 ∧ 0xF2#8 ≠ State.reset.cfg.idCmdResp) := by
  simp only [List.length_replicate]
  decide

theorem witness_MeLatchIsSetOnce :
    State.reset.cfg.cmdMeCalibrate ≠ State.reset.cfg.cmdSaveDcd ∧ respMe.length = 16 ∧
    respMe[0]? = some State.reset.cfg.idCmdResp ∧ respMe[2]? = some State.reset.cfg.cmdMeCalibrate ∧
    respMe[5]? = some 0#8 ∧ State.reset.meValid = false ∧ (ran (.cmdResponse respMe 1#32) State.reset).meValid = true ∧
    (respMe.set 5 2#8)[5]? ≠ some 0#8 ∧ (respMe.set 5 2#8)[2]? = some State.reset.cfg.cmdMeCalibrate := by decide

theorem witness_DcdLatchIsSetOnce :
    (respMe.set 2 6#8).length = 16 ∧ (respMe.set 2 6#8)[0]? = some State.reset.cfg.idCmdResp ∧
    (respMe.set 2 6#8)[2]? = some State.reset.cfg.cmdSaveDcd ∧ (respMe.set 2 6#8)[5]? = some 0#8 ∧
    State.reset.dcdValid = false ∧ (ran (.cmdResponse (respMe.set 2 6#8) 1#32) State.reset).dcdValid = true ∧
    respDcdFailed[5]? ≠ some 0#8 ∧ respDcdFailed[2]? = some State.reset.cfg.cmdSaveDcd := by decide

theorem witness_ResponsesAreMatchedByCommandOnly :
    (respMe.length = 16 ∧ (respMe.set 3 9#8).length = 16 ∧ respMe[0]? = (respMe.set 3 9#8)[0]? ∧
      respMe[2]? = (respMe.set 3 9#8)[2]? ∧ respMe[5]? = (respMe.set 3 9#8)[5]?) ∧
    ∃ t, exec (.cmdResponse respMe 1#32) State.reset = .next t := ⟨by decide, _, rfl⟩

/-- A set latch kept, cleared by its command, and a clear latch set. -/
theorem witness_LatchesAreRearmedOnlyByTheirCommand :
    (let s := ranAll [.cmdResponse respMe 1#32, .cmdIssue 7#8 []]
     s.meValid = true ∧ s.txp.valid = true ∧ s.txp.cmd = true ∧ s.txp.code = s.cfg.cmdMeCalibrate ∧
      (ran (.txCommit true) s).meValid = false) ∧
    (let s := ranAll [.cmdResponse (respMe.set 2 6#8) 1#32, .cmdIssue 6#8 []]
     s.dcdValid = true ∧ (ran (.txCommit true) s).dcdValid = false) ∧
    State.reset.meValid = false ∧ (ran (.cmdResponse respMe 1#32) State.reset).meValid = true ∧
    State.reset.dcdValid = false ∧ (ran (.cmdResponse (respMe.set 2 6#8) 1#32) State.reset).dcdValid = true := by decide

/-- The clauses with a bound of their own, at it. -/
theorem witness_RegReadOfTheSingleRegisters :
    { State.reset with pkt := List.replicate 0x7FFB 0#8 }.pkt.length ≤ 0x7FFB ∧
    { State.reset with stk := List.replicate 65535 ⟨0#8, 1#8, [0#8]⟩ }.stk.length < 65536 := by
  simp only [List.length_replicate]
  decide

theorem witness_UnmappedRegistersAreBadReg :
    (0x0006 ≤ (0x000F#16 : Half).toNat ∧ (0x000F#16 : Half).toNat ≤ 0x000F) ∧
    (0x0015 ≤ (0x0015#16 : Half).toNat ∧ (0x002F#16 : Half).toNat ≤ 0x002F) ∧
    (0x0034 ≤ (0x0034#16 : Half).toNat ∧ (0x003F#16 : Half).toNat ≤ 0x003F) ∧
    (0x0051 ≤ (0x0051#16 : Half).toNat ∧ (0x005F#16 : Half).toNat ≤ 0x005F) ∧
    (0x0062 ≤ (0x0062#16 : Half).toNat ∧ (0x00FF#16 : Half).toNat ≤ 0x00FF) ∧ 0x0200 ≤ (0xFFFF#16 : Half).toNat := by decide

theorem witness_ReservedOpcodesAreIllegal : (0x00#8 : Byte) = 0x00#8 ∧ 0x0D ≤ (0x0D#8 : Byte).toNat ∧ 0x0D ≤ (0xFF#8 : Byte).toNat := by decide

theorem witness_PureOperationsWriteNothing :
    (Instr.regRead 0#16).isPure = true ∧ (Instr.lenLookup 0#8).isPure = true ∧ (Instr.hdrDecode []).isPure = true ∧
    (Instr.hdrEncode 0#8 0#8 []).isPure = true := by decide

theorem witness_AbortedOperationsArePrecise :
    ∃ t, exec (.txFrame 6#8 []) State.reset = .next t ∧ statusAborts t.rsp.status = true := ⟨_, rfl, rfl⟩

/-- A pure failure, a stateful success and a stateful failure. -/
theorem witness_ErrorRecordIsSticky :
    (∃ t, exec (.regRead 6#16) State.reset = .next t ∧ (Instr.regRead 6#16).isPure = true) ∧
    (∃ t, exec .popSlice State.reset = .next t ∧ t.rsp.status = .ok) ∧
    ∃ t, exec (.txCommit true) State.reset = .next t ∧ (Instr.txCommit true).isPure = false ∧ t.rsp.status ≠ .ok ∧
      Instr.txCommit true ≠ .reset := ⟨⟨_, rfl, rfl⟩, ⟨_, rfl, rfl⟩, _, rfl, rfl, by decide, by decide⟩

theorem witness_ErrorRecordDecidesNothing :
    (∀ n, Instr.rxFrame [] ≠ .regRead n) ∧ ∃ t, exec (.rxFrame []) State.reset = .next t := ⟨by simp, _, rfl⟩

/-- POP_SLICE is none of the writers but of the stack, LEN_LOOKUP none at all. -/
theorem witness_EachRegisterHasItsWriters :
    ∃ t, exec (.lenLookup 0x11#8) State.reset = .next t ∧ Instr.lenLookup 0x11#8 ≠ .reset ∧
      (∀ f, Instr.lenLookup 0x11#8 ≠ .rxFrame f) ∧ Instr.lenLookup 0x11#8 ≠ .txCommit true ∧ Instr.lenLookup 0x11#8 ≠ .split ∧
      Instr.lenLookup 0x11#8 ≠ .popSlice ∧ (∀ ch p, Instr.lenLookup 0x11#8 ≠ .txFrame ch p) ∧
      (∀ k q, Instr.lenLookup 0x11#8 ≠ .cmdIssue k q) ∧ (∀ ok, Instr.lenLookup 0x11#8 ≠ .txCommit ok) ∧
      (∀ b now, Instr.lenLookup 0x11#8 ≠ .cmdResponse b now) ∧ (Instr.lenLookup 0x11#8).isPure = true ∧ t.rsp.status = .ok := by
  refine ⟨_, rfl, ?_⟩
  simp [Instr.isPure]

end Sys2Proof.Tests
end

section
/-! SUPPORT. Proofs of the scope family (00_scope.md): what a step does, how an operation can end, and that no operation
reads the response before it. -/

namespace Sys2Proof.Machine

/-! ### The step -/

theorem step_of_not_legal {s : State} (h : ¬Legal s.cfg) : step s = .fault .illegalConfig := if_neg h

theorem step_of_requests_cons {s : State} {r : Request} {rest : List Request} (hc : Legal s.cfg) (hr : s.requests = r :: rest) :
    step s = exec (decode r) { s with requests := rest } := by
  rw [step, if_pos hc, hr]

/-- Settles O6: it is what `step` says of a queue that is not empty. -/
theorem stepRunsTheNextRequest : Obligations.StepRunsTheNextRequest :=
  fun _ _ _ => step_of_requests_cons

/-- Settles O8: each broken constraint contradicts a part of `Legal`, the two on lengths by `lookupLen_bounds`. -/
theorem illegalConfigurationIsRefused : Obligations.IllegalConfigurationIsRefused := by
  intro s hbroken
  refine step_of_not_legal fun hc => ?_
  have ⟨_, _, _, _, hlen, hid, hreq, hcmd⟩ := hc
  rcases hbroken with ⟨id, hzero⟩ | hne | hlow | heq | hf2 | ⟨id, n, hn, hmax⟩
  · exact absurd (lookupLen_bounds hc hzero).1 (by decide)
  · exact hne hlen
  · omega
  · exact hcmd heq
  · exact hreq hf2
  · obtain ⟨-, hle, -⟩ := lookupLen_bounds hc hn
    omega

/-! ### The endings of an operation -/

/-- The ways an operation taken in state `s` can end (R13, R14): a pure one answers or is rejected, any other commits
its staged writes `u` with a status that is not aborted or raises one that is, and only a configuration that is not legal
stops the machine. -/
inductive Ends (i : Instr) (s : State) : Result → Prop where
  | pureReturned (hp : i.isPure = true) (r : Response) : Ends i s (pureReturn r s)
  | pureRaised (hp : i.isPure = true) {st : Status} (ha : statusAborts st = true) (info : Word) : Ends i s (pureRaise st info s)
  | returned (hp : i.isPure = false) {st : Status} (ha : statusAborts st = false) (r : Response) (u : State) :
      Ends i s (returnWith st r u)
  | raised (hp : i.isPure = false) {st : Status} (ha : statusAborts st = true) (info : Word) : Ends i s (raiseWith st info s)
  | stopped (hp : i.isPure = false) (hc : ¬Legal s.cfg) : Ends i s (.fault .illegalConfig)

theorem execHdrDecode_ends (bytes : Bytes) (s : State) : Ends (.hdrDecode bytes) s (execHdrDecode bytes s) := by
  unfold execHdrDecode
  split
  · exact .pureReturned rfl _
  · exact .pureRaised rfl rfl _

theorem execHdrEncode_ends (ch q : Byte) (bytes : Bytes) (s : State) :
    Ends (.hdrEncode ch q bytes) s (execHdrEncode ch q bytes s) := by
  unfold execHdrEncode
  split_ifs
  · exact .pureRaised rfl rfl _
  · exact .pureRaised rfl rfl _
  · exact .pureReturned rfl _

theorem execTxFrame_ends (ch : Byte) (bytes : Bytes) (s : State) : Ends (.txFrame ch bytes) s (execTxFrame ch bytes s) := by
  unfold execTxFrame
  split
  · exact .raised rfl rfl _
  · split_ifs
    · exact .raised rfl rfl _
    · exact .returned rfl rfl _ _

theorem execTxCommit_ends (ok : Bool) (s : State) : Ends (.txCommit ok) s (execTxCommit ok s) := by
  rw [execTxCommit]
  split
  · exact .returned rfl rfl _ _
  · exact .raised rfl rfl _

theorem execRxFrame_ends (bytes : Bytes) (s : State) : Ends (.rxFrame bytes) s (execRxFrame bytes s) := by
  unfold execRxFrame
  split
  · dsimp only
    split
    · exact .returned rfl rfl _ _
    · exact .returned rfl rfl _ _
    · split_ifs
      · exact .raised rfl rfl _
      · exact .returned rfl rfl _ _
  · exact .raised rfl rfl _

theorem execLenLookup_ends (id : Byte) (s : State) : Ends (.lenLookup id) s (execLenLookup id s) := by
  unfold execLenLookup
  split <;> exact .pureReturned rfl _

/-- The loop's statuses are aborted ones (R124), and it goes on for ever under no legal configuration (R132). -/
theorem execSplit_ends (s : State) : Ends .split s (execSplit s) := by
  unfold execSplit
  split
  · exact .returned rfl rfl _ _
  next st info hfailed =>
    have ha : statusAborts st = true := by rcases splitLoop_failed hfailed with rfl | rfl | rfl <;> rfl
    exact .raised rfl ha _
  next hendless => exact .stopped rfl fun hc => splitLoop_ends hc le_rfl hendless

theorem execPopSlice_ends (s : State) : Ends .popSlice s (execPopSlice s) := by
  unfold execPopSlice
  split <;> exact .returned rfl rfl _ _

theorem execCmdIssue_ends (cmd : Byte) (params : Bytes) (s : State) :
    Ends (.cmdIssue cmd params) s (execCmdIssue cmd params s) := by
  unfold execCmdIssue
  split_ifs
  · exact .raised rfl rfl _
  · exact .returned rfl rfl _ _

theorem execCmdResponse_ends (bytes : Bytes) (now : Word) (s : State) :
    Ends (.cmdResponse bytes now) s (execCmdResponse bytes now s) := by
  unfold execCmdResponse
  dsimp only
  split_ifs
  · exact .raised rfl rfl _
  · exact .raised rfl rfl _
  · exact .returned rfl rfl _ _
  · exact .returned rfl rfl _ _

theorem execRegRead_ends (reg : Half) (s : State) : Ends (.regRead reg) s (execRegRead reg s) := by
  unfold execRegRead
  split
  · exact .pureReturned rfl _
  · exact .pureRaised rfl rfl _

theorem exec_ends (i : Instr) (s : State) : Ends i s (exec i s) := by
  cases i with
  | reset => exact .returned rfl rfl _ _
  | hdrDecode bytes => exact execHdrDecode_ends bytes s
  | hdrEncode ch q bytes => exact execHdrEncode_ends ch q bytes s
  | txFrame ch bytes => exact execTxFrame_ends ch bytes s
  | txCommit ok => exact execTxCommit_ends ok s
  | rxFrame bytes => exact execRxFrame_ends bytes s
  | lenLookup id => exact execLenLookup_ends id s
  | split => exact execSplit_ends s
  | popSlice => exact execPopSlice_ends s
  | cmdIssue cmd params => exact execCmdIssue_ends cmd params s
  | cmdResponse bytes now => exact execCmdResponse_ends bytes now s
  | regRead reg => exact execRegRead_ends reg s
  | reserved op => exact .raised rfl rfl _

/-- Every ending but the stop is a next state. -/
theorem Ends.next_of_legal {i : Instr} {s : State} {o : Result} (h : Ends i s o) (hc : Legal s.cfg) : ∃ t, o = .next t := by
  cases h with
  | pureReturned => exact ⟨_, rfl⟩
  | pureRaised => exact ⟨_, rfl⟩
  | returned => exact ⟨_, rfl⟩
  | raised => exact ⟨_, rfl⟩
  | stopped _ hn => exact absurd hc hn

/-- A pure operation writes the response only (R14). -/
theorem Ends.next_of_isPure {i : Instr} {s : State} {o : Result} (h : Ends i s o) (hp : i.isPure = true) :
    ∃ r, o = .next { s with rsp := r } := by
  cases h with
  | pureReturned => exact ⟨_, rfl⟩
  | pureRaised => exact ⟨_, rfl⟩
  | returned hn => simp [hp] at hn
  | raised hn => simp [hp] at hn
  | stopped hn => simp [hp] at hn

/-- A status that is aborted was raised: of the state before, only the error record and the response change (R13). -/
theorem Ends.frame_of_aborts {i : Instr} {s t : State} (h : Ends i s (.next t)) (ha : statusAborts t.rsp.status = true) :
    t = { s with errSeen := t.errSeen, lastErr := t.lastErr, rsp := { status := t.rsp.status, info := t.rsp.info } } := by
  generalize ho : Host.Outcome.next t = o at h
  cases h with
  | pureReturned =>
    rw [pureReturn_eq_next.1 ho.symm] at ha
    cases ha
  | pureRaised => rw [pureRaise_eq_next.1 ho.symm]
  | returned _ hn =>
    rw [returnWith_eq_next.1 ho.symm, recordError_rsp, hn] at ha
    cases ha
  | raised _ hst =>
    rw [raiseWith_eq_next.1 ho.symm, recordError_of_ne (by rintro rfl; cases hst)]
  | stopped => cases ho

/-- Settles O10: an operation ends in a next state or in the stop, and the stop takes a configuration that is not legal. -/
theorem everyOperationResponds : Obligations.EveryOperationResponds :=
  fun i s hc => (exec_ends i s).next_of_legal hc

/-- Settles O51: of the ways to end, only a `raise` gives an aborting status, and it starts from the state before. -/
theorem abortedOperationsArePrecise : Obligations.AbortedOperationsArePrecise :=
  fun i s _ h ha => Ends.frame_of_aborts (h ▸ exec_ends i s) ha

/-! ### The response is an output (R71) -/

theorem mirrorSeq_withRsp (ch v : Byte) (s : State) (r : Response) :
    mirrorSeq ch v { s with rsp := r } = { mirrorSeq ch v s with rsp := r } := by
  unfold mirrorSeq
  split <;> rfl

theorem applySend_withRsp (s : State) (r : Response) : applySend { s with rsp := r } = { applySend s with rsp := r } := by
  simp only [applySend]
  split <;> rfl

theorem latchMe_withRsp (cmd st : Byte) (now : Word) (s : State) (r : Response) :
    latchMe cmd st now { s with rsp := r } = { latchMe cmd st now s with rsp := r } := by
  simp only [latchMe]
  split <;> rfl

theorem latchDcd_withRsp (cmd st : Byte) (now : Word) (s : State) (r : Response) :
    latchDcd cmd st now { s with rsp := r } = { latchDcd cmd st now s with rsp := r } := by
  simp only [latchDcd]
  split <;> rfl

theorem execTxCommit_withRsp (ok : Bool) (s : State) (r : Response) :
    execTxCommit ok { s with rsp := r } = execTxCommit ok s := by
  rw [execTxCommit, applySend_withRsp]
  cases ok <;> rfl

theorem execRxFrame_withRsp (bytes : Bytes) (s : State) (r : Response) :
    execRxFrame bytes { s with rsp := r } = execRxFrame bytes s := by
  have hmirrored (h : Hdr) (p : Bytes) : mirrorSeq h.ch h.seq { s with hdr := h, pkt := p, rsp := r } =
      { mirrorSeq h.ch h.seq { s with hdr := h, pkt := p } with rsp := r } := by
    rw [← mirrorSeq_withRsp]
  simp only [execRxFrame, hmirrored]
  rfl

theorem execCmdResponse_withRsp (bytes : Bytes) (now : Word) (s : State) (r : Response) :
    execCmdResponse bytes now { s with rsp := r } = execCmdResponse bytes now s := by
  have hlatched (cmd st : Byte) : latchDcd cmd st now (latchMe cmd st now { s with rspLatch := latchResponse bytes, rsp := r }) =
      { latchDcd cmd st now (latchMe cmd st now { s with rspLatch := latchResponse bytes }) with rsp := r } := by
    rw [← latchDcd_withRsp, ← latchMe_withRsp]
  simp only [execCmdResponse, hlatched]
  rfl

/-- No operation reads `rsp`, and every ending overwrites it. Where the staging of the writes itself branches, `rsp` is moved
past it first; the other operations unfold to the same next state. -/
theorem exec_withRsp (i : Instr) (s : State) (r : Response) : exec i { s with rsp := r } = exec i s := by
  cases i with
  | txCommit ok => exact execTxCommit_withRsp ok s r
  | rxFrame bytes => exact execRxFrame_withRsp bytes s r
  | cmdResponse bytes now => exact execCmdResponse_withRsp bytes now s r
  | _ => rfl

/-- Settles O54, for each operation by `exec_withRsp`. -/
theorem responseIsNeverReadBack : Obligations.ResponseIsNeverReadBack := exec_withRsp

/-- Settles O50: it writes the response only, and the second run does not read that response. -/
theorem pureOperationsWriteNothing : Obligations.PureOperationsWriteNothing := by
  intro i s hp
  obtain ⟨r, hr⟩ := (exec_ends i s).next_of_isPure hp
  exact ⟨_, hr, rfl, (exec_withRsp i s r).trans hr⟩

end Sys2Proof.Machine
end

section
/-! SUPPORT. Proofs of the state family (10_state.md): what each operation writes, that the writes keep the invariant, and
what REG_READ answers for each register number. -/

namespace Sys2Proof.Machine

/-! ### What an operation writes -/

/-- `Writes s i u`: operation `i`, taken in state `s`, commits the staged state `u`; its response and the error record are
written after that. An operation that raises, or is pure, commits `s` itself (R13, R14). -/
inductive Writes (s : State) : Instr → State → Prop where
  | nothing {i : Instr} : Writes s i s
  | reset : Writes s .reset { State.resetWith s.cfg with requests := s.requests }
  | txFrame {ch : Byte} {p : Bytes} {c : Channel} (hc : chan? ch = some c) :
      Writes s (.txFrame ch p) { s with txp := { valid := true, cmd := false, ch := c, code := 0#8 } }
  | txSent (hv : s.txp.valid = true) : Writes s (.txCommit true) { applySend s with txp := {} }
  | txDropped (hv : s.txp.valid = true) : Writes s (.txCommit false) { s with txp := {} }
  | rxError {h0 h1 h2 h3 : Byte} {p : Bytes} {h : Hdr} (hd : h = decodeHeader s.cfg.allOnesMode h0 h1 h2 h3)
      (hcls : h.cls = .error) : Writes s (.rxFrame (h0 :: h1 :: h2 :: h3 :: p)) { s with hdr := h, pkt := [] }
  | rxEmpty {h0 h1 h2 h3 : Byte} {p : Bytes} {h : Hdr} (hd : h = decodeHeader s.cfg.allOnesMode h0 h1 h2 h3)
      (hcls : h.cls = .empty) :
      Writes s (.rxFrame (h0 :: h1 :: h2 :: h3 :: p)) (mirrorSeq h.ch h.seq { s with hdr := h, pkt := [] })
  | rxValid {h0 h1 h2 h3 : Byte} {p : Bytes} {h : Hdr} (hd : h = decodeHeader s.cfg.allOnesMode h0 h1 h2 h3)
      (hcls : h.cls = .valid) (hlen : h.dlen.toNat ≤ p.length) :
      Writes s (.rxFrame (h0 :: h1 :: h2 :: h3 :: p))
        (mirrorSeq h.ch h.seq { s with hdr := h, pkt := p.take h.dlen.toNat })
  | split {l : List Slice} (hl : splitLoop s.cfg s.pkt.length 0 s.stk.length s.pkt = .slices l) :
      Writes s .split { s with stk := s.stk ++ l }
  | popSlice {e : Slice} (he : s.stk.getLast? = some e) : Writes s .popSlice { s with stk := s.stk.dropLast }
  | cmdIssue {cmd : Byte} {params : Bytes} (hlen : params.length ≤ Config.cmdMaxParams) : Writes s (.cmdIssue cmd params)
      { s with txp := { valid := true, cmd := true, ch := Config.chControl, code := cmd } }
  | cmdResponse {b : Bytes} {now : Word} (hlen : b.length = Config.cmdRespLen) (hid : byteAt b 0 = s.cfg.idCmdResp) :
      Writes s (.cmdResponse b now) (latchDcd (byteAt b 2) (byteAt b 5) now
        (latchMe (byteAt b 2) (byteAt b 5) now { s with rspLatch := latchResponse b }))

/-- The outcomes of a stateful operation by what it commits. `Ends` says how an operation ends and with which status; this
says what stands in the state when it does. None of them ends with BAD_REG, which the pure REG_READ alone raises (R162). -/
inductive Commits (i : Instr) (s : State) : Result → Prop where
  | returned {u : State} (hw : Writes s i u) {st : Status} (hb : st ≠ .badReg) (r : Response) : Commits i s (returnWith st r u)
  | stopped : Commits i s (.fault .illegalConfig)

/-- A `raise` commits the state before the operation. -/
theorem Commits.raised {i : Instr} {s : State} {st : Status} (hb : st ≠ .badReg) (info : Word) :
    Commits i s (raiseWith st info s) :=
  .returned .nothing hb { info := info }

theorem execTxFrame_commits (ch : Byte) (p : Bytes) (s : State) : Commits (.txFrame ch p) s (execTxFrame ch p s) := by
  unfold execTxFrame
  split
  · exact .raised (by decide) _
  next c hc =>
    split
    · exact .raised (by decide) _
    · exact .returned (.txFrame hc) (by decide) _

theorem execTxCommit_commits (ok : Bool) (s : State) : Commits (.txCommit ok) s (execTxCommit ok s) := by
  unfold execTxCommit
  split
  next hv =>
    cases ok with
    | true => exact .returned (.txSent hv) (by decide) _
    | false => exact .returned (.txDropped hv) (by decide) _
  · exact .raised (by decide) _

theorem execRxFrame_commits (f : Bytes) (s : State) : Commits (.rxFrame f) s (execRxFrame f s) := by
  unfold execRxFrame
  split
  next h0 h1 h2 h3 p =>
    obtain ⟨hnone, -⟩ := decodeHeader_cls s.cfg.allOnesMode h0 h1 h2 h3
    dsimp only
    split
    next hcls => exact .returned (.rxError rfl hcls) (by decide) _
    next hcls => exact .returned (.rxEmpty rfl hcls) (by decide) _
    next herror hempty =>
      split
      · exact .raised (by decide) _
      next hlen =>
        have hvalid : (decodeHeader s.cfg.allOnesMode h0 h1 h2 h3).cls = .valid := by
          cases hcls : (decodeHeader s.cfg.allOnesMode h0 h1 h2 h3).cls with
          | none => exact absurd hcls hnone
          | valid => rfl
          | empty => exact absurd hcls hempty
          | error => exact absurd hcls herror
        exact .returned (.rxValid rfl hvalid (Nat.le_of_not_lt hlen)) (by decide) _
  · exact .raised (by decide) _

theorem execSplit_commits (s : State) : Commits .split s (execSplit s) := by
  unfold execSplit
  split
  next l hl => exact .returned (.split hl) (by decide) _
  next st info hfailed =>
    have hb : st ≠ .badReg := by rcases splitLoop_failed hfailed with rfl | rfl | rfl <;> decide
    exact .raised hb info
  · exact .stopped

theorem execPopSlice_commits (s : State) : Commits .popSlice s (execPopSlice s) := by
  unfold execPopSlice
  split
  · exact .returned .nothing (by decide) _
  next he => exact .returned (.popSlice he) (by decide) _

theorem execCmdIssue_commits (cmd : Byte) (params : Bytes) (s : State) :
    Commits (.cmdIssue cmd params) s (execCmdIssue cmd params s) := by
  unfold execCmdIssue
  split
  · exact .raised (by decide) _
  next hlen => exact .returned (.cmdIssue (Nat.le_of_not_lt hlen)) (by decide) _

theorem execCmdResponse_commits (b : Bytes) (now : Word) (s : State) :
    Commits (.cmdResponse b now) s (execCmdResponse b now s) := by
  unfold execCmdResponse
  dsimp only
  split_ifs with hlen hid
  · exact .raised (by decide) _
  · exact .raised (by decide) _
  · exact .returned (.cmdResponse (not_not.1 hlen) (not_not.1 hid)) (by decide) _
  · exact .returned (.cmdResponse (not_not.1 hlen) (not_not.1 hid)) (by decide) _

theorem exec_commits {i : Instr} (hp : i.isPure = false) (s : State) : Commits i s (exec i s) := by
  cases i with
  | reset => exact .returned .reset (by decide) _
  | txFrame ch p => exact execTxFrame_commits ch p s
  | txCommit ok => exact execTxCommit_commits ok s
  | rxFrame f => exact execRxFrame_commits f s
  | split => exact execSplit_commits s
  | popSlice => exact execPopSlice_commits s
  | cmdIssue cmd params => exact execCmdIssue_commits cmd params s
  | cmdResponse b now => exact execCmdResponse_commits b now s
  | reserved => exact .raised (by decide) _
  | hdrDecode | hdrEncode | lenLookup | regRead => cases hp

/-- What an operation that answers a next state has done: a pure one has written its response only, any other has
committed its writes and then recorded the status of its response. -/
theorem exec_eq_next {i : Instr} {s t : State} (h : exec i s = .next t) :
    (i.isPure = true ∧ ∃ r, t = { s with rsp := r }) ∨
    (i.isPure = false ∧ ∃ u r, Writes s i u ∧ r.status ≠ .badReg ∧ t = recordError r.status { u with rsp := r }) := by
  cases hp : i.isPure with
  | true =>
    obtain ⟨r, hr⟩ := (exec_ends i s).next_of_isPure hp
    cases hr.symm.trans h
    exact .inl ⟨rfl, r, rfl⟩
  | false =>
    have hc := exec_commits hp s
    rw [h] at hc
    generalize ho : Host.Outcome.next t = o at hc
    cases hc with
    | @returned u hw st hb r => exact .inr ⟨rfl, u, { r with status := st }, hw, hb, returnWith_eq_next.1 ho.symm⟩
    | stopped => cases ho

/-! ### The invariant through each register's writes -/

/-- No clause of the invariant is about `SEQ`. -/
theorem Inv.withSeq {s : State} (h : Inv s) (q : Vector Byte 6) : Inv { s with seq := q } :=
  ⟨h.legal, h.hdr, h.pktLen, h.pktVal, h.pktNil, h.slices, h.depth, h.txp, h.cmdSeq, h.rsp, h.err⟩

/-- No clause of the invariant is about the calibration latches and their timestamps. -/
theorem Inv.withCalibration {s : State} (h : Inv s) (me dcd : Bool) (meTs dcdTs : Word) :
    Inv { s with meValid := me, meTs := meTs, dcdValid := dcd, dcdTs := dcdTs } :=
  ⟨h.legal, h.hdr, h.pktLen, h.pktVal, h.pktNil, h.slices, h.depth, h.txp, h.cmdSeq, h.rsp, h.err⟩

theorem Inv.withTxp {s : State} (h : Inv s) {t : Txp} (ht : TxpWf t) : Inv { s with txp := t } :=
  ⟨h.legal, h.hdr, h.pktLen, h.pktVal, h.pktNil, h.slices, h.depth, ht, h.cmdSeq, h.rsp, h.err⟩

theorem Inv.withPacket {s : State} (h : Inv s) {hd : Hdr} (hwf : HdrWf hd) {p : Bytes}
    (hval : hd.cls = .valid → p.length = hd.dlen.toNat) (hnil : hd.cls ≠ .valid → p = []) :
    Inv { s with hdr := hd, pkt := p } := by
  have hcap : p.length ≤ 0x7FFB := by
    by_cases hcls : hd.cls = .valid
    · have hbc := hd.bc.isLt
      rw [hval hcls, hwf.dlen]
      omega
    · simp [hnil hcls]
  exact ⟨h.legal, hwf, hcap, hval, hnil, h.slices, h.depth, h.txp, h.cmdSeq, h.rsp, h.err⟩

theorem Inv.withStack {s : State} (h : Inv s) {l : List Slice} (hgood : ∀ e ∈ l, GoodSlice s.cfg e)
    (hdepth : ∀ d, s.cfg.stackDepth = some d → l.length ≤ d) : Inv { s with stk := l } :=
  ⟨h.legal, h.hdr, h.pktLen, h.pktVal, h.pktNil, hgood, hdepth, h.txp, h.cmdSeq, h.rsp, h.err⟩

theorem Inv.withRspLatch {s : State} (h : Inv s) {r : RspLatch} (hv : r.valid = true) (hid : r.reportId = s.cfg.idCmdResp) :
    Inv { s with rspLatch := r } :=
  ⟨h.legal, h.hdr, h.pktLen, h.pktVal, h.pktNil, h.slices, h.depth, h.txp, h.cmdSeq, ⟨by simp [hv], fun _ => hid⟩, h.err⟩

theorem readCmdSeq_bumpCmdSeq_of_ne {id k : Byte} (h : k ≠ id) (s : State) :
    readCmdSeq (bumpCmdSeq id s) k = readCmdSeq s k := by
  have hne : id.toNat ≠ k.toNat := fun e => h (BitVec.eq_of_toNat_eq e.symm)
  simp [readCmdSeq, bumpCmdSeq, hne]

/-- Only the entry of the command request id counts (R24). -/
theorem Inv.bumpCmdSeq {s : State} (h : Inv s) : Inv (bumpCmdSeq Config.idCmdReq s) where
  legal := h.legal
  hdr := h.hdr
  pktLen := h.pktLen
  pktVal := h.pktVal
  pktNil := h.pktNil
  slices := h.slices
  depth := h.depth
  txp := h.txp
  cmdSeq k hk := (readCmdSeq_bumpCmdSeq_of_ne hk s).trans (h.cmdSeq k hk)
  rsp := h.rsp
  err := h.err

theorem Inv.mirrorSeq {s : State} (h : Inv s) (ch v : Byte) : Inv (mirrorSeq ch v s) := by
  cases hc : chan? ch with
  | some c =>
    rw [mirrorSeq_of_chan hc]
    exact h.withSeq _
  | none => rwa [mirrorSeq_of_none hc]

theorem Inv.applySend {s : State} (h : Inv s) : Inv (applySend s) := by
  have hseq : Inv (bumpSeq s.txp.ch s) := h.withSeq _
  unfold Machine.applySend
  dsimp only
  split
  · exact hseq.bumpCmdSeq.withCalibration _ _ _ _
  · exact hseq

theorem Inv.latchMe {s : State} (h : Inv s) (cmd st : Byte) (now : Word) : Inv (latchMe cmd st now s) := by
  unfold Machine.latchMe
  split
  · exact h.withCalibration _ _ _ _
  · exact h

theorem Inv.latchDcd {s : State} (h : Inv s) (cmd st : Byte) (now : Word) : Inv (latchDcd cmd st now s) := by
  unfold Machine.latchDcd
  split
  · exact h.withCalibration _ _ _ _
  · exact h

/-! ### The values written are well formed -/

theorem txpWf_clear : TxpWf {} := ⟨fun _ => rfl, nofun, fun _ => rfl⟩

theorem decodeHeader_dlen_toNat (mode : AllOnesMode) (h0 h1 h2 h3 : Byte) :
    (decodeHeader mode h0 h1 h2 h3).dlen.toNat = (decodeHeader mode h0 h1 h2 h3).bc.toNat - 4 := by
  simp only [decodeHeader]
  generalize (le16 h0 h1).extractLsb' 0 15 = bc
  have hbc := bc.isLt
  split
  · have hle : 4#16 ≤ bc.setWidth 16 := by bv_omega
    rw [BitVec.toNat_sub_of_le hle, BitVec.toNat_setWidth_of_le (by decide)]
    rfl
  · rw [BitVec.toNat_ofNat]
    omega

/-- Every decoded header may be latched: what its class says of channel and count is what `classify` tests (R82). -/
theorem decodeHeader_wf (mode : AllOnesMode) (h0 h1 h2 h3 : Byte) : HdrWf (decodeHeader mode h0 h1 h2 h3) where
  dlen := decodeHeader_dlen_toNat mode h0 h1 h2 h3
  none hcls := absurd hcls (decodeHeader_cls mode h0 h1 h2 h3).1
  empty hcls := by
    simp only [decodeHeader, classify] at hcls ⊢
    split_ifs at hcls with h5 _ hz
    exact ⟨Nat.le_of_not_lt h5, hz⟩
  valid hcls := by
    simp only [decodeHeader, classify] at hcls ⊢
    split_ifs at hcls with h5 _ hz
    exact ⟨Nat.le_of_not_lt h5, hz⟩

/-- The loop answers with slices only if the stack has room for all of them (R28, R124). -/
theorem splitLoop_room {c : Config} {fuel off d : Nat} {rest : Bytes} {l : List Slice}
    (h : splitLoop c fuel off d rest = .slices l) {m : Nat} (hm : c.stackDepth = some m) (hd : d ≤ m) : d + l.length ≤ m := by
  fun_induction splitLoop c fuel off d rest generalizing l with
  | case1 =>
    cases h
    exact hd
  | case2 => cases h
  | case3 => cases h
  | case4 => cases h
  | case5 => cases h
  | case6 fuel off d id tail n hn hlen hfull ih =>
    obtain ⟨l', hl', rfl⟩ := SplitEnd.push_eq_slices.1 h
    have hne : d ≠ m := fun e => hfull (e ▸ hm)
    have := ih hl' (by omega)
    rw [List.length_cons]
    omega

/-! ### The invariant holds at power-on and is kept by every step -/

theorem inv_resetWith {c : Config} (hc : Legal c) : Inv (State.resetWith c) where
  legal := hc
  hdr := ⟨rfl, fun _ => rfl, nofun, nofun⟩
  pktLen := Nat.zero_le _
  pktVal := nofun
  pktNil _ := rfl
  slices := nofun
  depth d _ := Nat.zero_le d
  txp := txpWf_clear
  cmdSeq id _ := by simp [State.resetWith, readCmdSeq]
  rsp := ⟨fun _ => rfl, nofun⟩
  err := ⟨by simp [State.resetWith], ⟨fun _ => rfl, fun _ => rfl⟩, fun h => absurd rfl h⟩

theorem Inv.writes {s u : State} {i : Instr} (h : Inv s) (hw : Writes s i u) : Inv u := by
  cases hw with
  | nothing => exact h
  | reset => exact (inv_resetWith h.legal).withRequests _
  | txFrame hc => exact h.withTxp ⟨nofun, nofun, fun _ => rfl⟩
  | txSent => exact h.applySend.withTxp txpWf_clear
  | txDropped => exact h.withTxp txpWf_clear
  | rxError hd hcls =>
    subst hd
    exact h.withPacket (decodeHeader_wf ..) (by simp [hcls]) fun _ => rfl
  | rxEmpty hd hcls =>
    subst hd
    exact (h.withPacket (decodeHeader_wf ..) (by simp [hcls]) fun _ => rfl).mirrorSeq _ _
  | rxValid hd hcls hlen =>
    have hval := List.length_take_of_le hlen
    subst hd
    exact (h.withPacket (decodeHeader_wf ..) (fun _ => hval) (absurd hcls)).mirrorSeq _ _
  | split hl =>
    obtain ⟨-, hgood⟩ := splitLoop_slices h.legal hl
    refine h.withStack (fun e he => (List.mem_append.1 he).elim (h.slices e) (hgood e)) fun d hd => ?_
    rw [List.length_append]
    exact splitLoop_room hl hd (h.depth d hd)
  | popSlice =>
    refine h.withStack (fun e he => h.slices e (List.dropLast_subset _ he)) fun d hd => ?_
    rw [List.length_dropLast]
    exact (Nat.sub_le _ _).trans (h.depth d hd)
  | cmdIssue => exact h.withTxp ⟨nofun, fun _ => rfl, nofun⟩
  | cmdResponse _ hid => exact ((h.withRspLatch rfl hid).latchMe _ _ _).latchDcd _ _ _

theorem Inv.exec {s t : State} {i : Instr} (h : Inv s) (he : exec i s = .next t) : Inv t := by
  obtain ⟨-, r, rfl⟩ | ⟨-, u, r, hw, hb, rfl⟩ := exec_eq_next he
  · exact h.withRsp r
  · exact ((h.writes hw).withRsp r).recordError hb

theorem step_eq_next {s t : State} (h : step s = .next t) :
    t = s ∨ ∃ r rest, s.requests = r :: rest ∧ exec (decode r) { s with requests := rest } = .next t := by
  unfold step at h
  split_ifs at h
  split at h
  · cases h
    exact .inl rfl
  next r rest hr => exact .inr ⟨r, rest, hr, h⟩

/-- Settles O14: an idle step changes nothing, and any other is an operation, whose writes, response and error record each
keep the invariant. -/
theorem stepKeepsInvariant : Obligations.StepKeepsInvariant := by
  intro s t h hs
  obtain rfl | ⟨r, rest, -, he⟩ := step_eq_next hs
  · exact h
  · exact (h.withRequests rest).exec he

/-- Settles O13, for State.reset by the legality of the reference configuration. -/
theorem invariantHoldsAtReset : Obligations.InvariantHoldsAtReset :=
  ⟨fun _ => inv_resetWith, inv_resetWith (by decide)⟩

/-- Settles O12: every clause is a field of the power-on state. -/
theorem resetLeavesTheResetState : Obligations.ResetLeavesTheResetState := by
  intro s
  refine ⟨_, rfl, rfl, ?_⟩
  simp [State.resetWith, readCmdSeq]

/-! ### The frame of each register -/

section
variable {s u : State} {i : Instr}

theorem Writes.cfg (h : Writes s i u) : u.cfg = s.cfg := by
  cases h with
  | reset => rfl
  | _ => simp

theorem Writes.requests (h : Writes s i u) : u.requests = s.requests := by
  cases h with
  | reset => rfl
  | _ => simp

theorem Writes.packet (h : Writes s i u) (hr : i ≠ .reset) (hrx : ∀ f, i ≠ .rxFrame f) : u.hdr = s.hdr ∧ u.pkt = s.pkt := by
  cases h with
  | reset => exact absurd rfl hr
  | rxError | rxEmpty | rxValid => exact absurd rfl (hrx _)
  | _ => simp

theorem Writes.seq (h : Writes s i u) (hr : i ≠ .reset) (hrx : ∀ f, i ≠ .rxFrame f) (htx : i ≠ .txCommit true) :
    u.seq = s.seq := by
  cases h with
  | reset => exact absurd rfl hr
  | txSent => exact absurd rfl htx
  | rxError | rxEmpty | rxValid => exact absurd rfl (hrx _)
  | _ => simp

theorem Writes.cmdSeq (h : Writes s i u) (hr : i ≠ .reset) (htx : i ≠ .txCommit true) : u.cmdSeq = s.cmdSeq := by
  cases h with
  | reset => exact absurd rfl hr
  | txSent => exact absurd rfl htx
  | _ => simp

theorem Writes.stk (h : Writes s i u) (hr : i ≠ .reset) (hsplit : i ≠ .split) (hpop : i ≠ .popSlice) : u.stk = s.stk := by
  cases h with
  | reset => exact absurd rfl hr
  | split => exact absurd rfl hsplit
  | popSlice => exact absurd rfl hpop
  | _ => simp

theorem Writes.txp (h : Writes s i u) (hr : i ≠ .reset) (hframe : ∀ ch p, i ≠ .txFrame ch p)
    (hissue : ∀ k q, i ≠ .cmdIssue k q) (hcommit : ∀ ok, i ≠ .txCommit ok) : u.txp = s.txp := by
  cases h with
  | reset => exact absurd rfl hr
  | txFrame => exact absurd rfl (hframe _ _)
  | cmdIssue => exact absurd rfl (hissue _ _)
  | txSent | txDropped => exact absurd rfl (hcommit _)
  | _ => simp

theorem Writes.rspLatch (h : Writes s i u) (hr : i ≠ .reset) (hresp : ∀ b now, i ≠ .cmdResponse b now) :
    u.rspLatch = s.rspLatch ∧ u.meTs = s.meTs ∧ u.dcdTs = s.dcdTs := by
  cases h with
  | reset => exact absurd rfl hr
  | cmdResponse => exact absurd rfl (hresp _ _)
  | _ => simp

theorem Writes.calibration (h : Writes s i u) (hr : i ≠ .reset) (hresp : ∀ b now, i ≠ .cmdResponse b now)
    (htx : i ≠ .txCommit true) : u.meValid = s.meValid ∧ u.dcdValid = s.dcdValid := by
  cases h with
  | reset => exact absurd rfl hr
  | txSent => exact absurd rfl htx
  | cmdResponse => exact absurd rfl (hresp _ _)
  | _ => simp

/-- The writes an operation stages leave the error record; its ending alone writes it (R172). -/
theorem Writes.errorRecord (h : Writes s i u) (hr : i ≠ .reset) : u.errSeen = s.errSeen ∧ u.lastErr = s.lastErr := by
  cases h with
  | reset => exact absurd rfl hr
  | _ => simp

end

/-- An operation's next state is what it commits but for the response and the error record, and only a stateful operation
whose status is not OK writes that record (R172). -/
theorem exec_next_writes {i : Instr} {s t : State} (h : exec i s = .next t) :
    ∃ u, Writes s i u ∧ ∃ r seen last, t = { u with rsp := r, errSeen := seen, lastErr := last } ∧
      (i.isPure = true ∨ r.status = .ok → seen = u.errSeen ∧ last = u.lastErr) := by
  obtain ⟨-, r, rfl⟩ | ⟨hp, u, r, hw, -, rfl⟩ := exec_eq_next h
  · exact ⟨s, .nothing, r, _, _, rfl, fun _ => ⟨rfl, rfl⟩⟩
  · refine ⟨u, hw, r, ?_⟩
    by_cases hok : r.status = .ok
    · rw [hok, recordError_ok]
      exact ⟨_, _, rfl, fun _ => ⟨rfl, rfl⟩⟩
    · rw [recordError_of_ne hok]
      exact ⟨_, _, rfl, by simp [hp, hok]⟩

theorem exec_cfg {i : Instr} {s t : State} (h : exec i s = .next t) : t.cfg = s.cfg := by
  obtain ⟨u, hw, r, seen, last, rfl, -⟩ := exec_next_writes h
  exact hw.cfg

/-- Settles O11: no operation's writes reach the configuration, and an idle step changes nothing. -/
theorem configurationNeverChanges : Obligations.ConfigurationNeverChanges := by
  refine fun s t => ⟨fun hs => ?_, fun _ => exec_cfg⟩
  obtain rfl | ⟨r, rest, -, he⟩ := step_eq_next hs
  · rfl
  · exact (exec_cfg he :)

/-- Settles O55, register by register from the frame of what the operation commits. -/
theorem eachRegisterHasItsWriters : Obligations.EachRegisterHasItsWriters := by
  intro i s t h hr
  obtain ⟨u, hw, r, seen, last, rfl, hrecord⟩ := exec_next_writes h
  obtain ⟨hseen, hlast⟩ := hw.errorRecord hr
  refine ⟨hw.packet hr, hw.seq hr, hw.cmdSeq hr, hw.stk hr, hw.txp hr, hw.rspLatch hr, hw.calibration hr, fun hok => ?_,
    hw.requests⟩
  obtain ⟨hs, hl⟩ := hrecord hok
  exact ⟨hs.trans hseen, hl.trans hlast⟩

/-! ### Words of packed fields -/

theorem eq_ofNat_of_toNat_eq {w : Word} {n : Nat} (h : w.toNat = n) : w = BitVec.ofNat 32 n := by
  rw [← h, BitVec.ofNat_toNat, BitVec.setWidth_eq]

theorem bit32_toNat (b : Bool) : (bit32 b).toNat = b.toNat := by cases b <;> rfl

theorem bit32_eq (b : Bool) : bit32 b = BitVec.ofNat 32 b.toNat := eq_ofNat_of_toNat_eq (bit32_toNat b)

theorem setWidth_depthField {n : Nat} (h : n < 2 ^ 16) : (depthField n).setWidth 32 = BitVec.ofNat 32 n := by
  apply eq_ofNat_of_toNat_eq
  rw [depthField, if_pos h, BitVec.toNat_setWidth, BitVec.toNat_ofNat]
  omega

/-- Two fields that do not overlap add up. -/
theorem or_shiftLeft_toNat {lo hi : Word} {k : Nat} (hlo : lo.toNat < 2 ^ k) (hhi : hi.toNat * 2 ^ k < 2 ^ 32) :
    (lo ||| hi <<< k).toNat = lo.toNat + hi.toNat * 2 ^ k := by
  rw [BitVec.toNat_or, BitVec.toNat_shiftLeft, Nat.shiftLeft_eq, Nat.mod_eq_of_lt hhi, ← Nat.shiftLeft_eq, Nat.or_comm,
    ← Nat.shiftLeft_add_eq_or_of_lt hlo, Nat.shiftLeft_eq, Nat.add_comm]

theorem packHdr0_eq (h : Hdr) :
    packHdr0 h = BitVec.ofNat 32 (h.bc.toNat + 32768 * h.cont.toNat + 65536 * h.dlen.toNat) := by
  have hbc := h.bc.isLt
  have hcont := h.cont.toNat_lt
  have hdlen := h.dlen.isLt
  apply eq_ofNat_of_toNat_eq
  have hlow : (h.bc.setWidth 32 ||| bit32 h.cont <<< 15).toNat = h.bc.toNat + h.cont.toNat * 2 ^ 15 := by
    rw [or_shiftLeft_toNat] <;> simp only [bit32_toNat, BitVec.toNat_setWidth] <;> omega
  rw [packHdr0, or_shiftLeft_toNat] <;> simp only [hlow, BitVec.toNat_setWidth] <;> omega

theorem packHdr1_eq (h : Hdr) :
    packHdr1 h = BitVec.ofNat 32 (h.ch.toNat + 256 * h.seq.toNat + 65536 * (classCode h.cls).toNat) := by
  have hch := h.ch.isLt
  have hseq := h.seq.isLt
  have hcls := (classCode h.cls).isLt
  apply eq_ofNat_of_toNat_eq
  have hlow : (h.ch.setWidth 32 ||| h.seq.setWidth 32 <<< 8).toNat = h.ch.toNat + h.seq.toNat * 2 ^ 8 := by
    rw [or_shiftLeft_toNat] <;> simp only [BitVec.toNat_setWidth] <;> omega
  rw [packHdr1, or_shiftLeft_toNat] <;> simp only [hlow, BitVec.toNat_setWidth] <;> omega

theorem packTxp_eq (t : Txp) : packTxp t =
    BitVec.ofNat 32 (t.valid.toNat + 2 * t.cmd.toNat + 256 * t.ch.val + 65536 * t.code.toNat) := by
  have hvalid := t.valid.toNat_lt
  have hcmd := t.cmd.toNat_lt
  have hch := t.ch.isLt
  have hcode := t.code.isLt
  apply eq_ofNat_of_toNat_eq
  have hflags : (bit32 t.valid ||| bit32 t.cmd <<< 1).toNat = t.valid.toNat + t.cmd.toNat * 2 ^ 1 := by
    rw [or_shiftLeft_toNat] <;> simp only [bit32_toNat] <;> omega
  have hlow : (bit32 t.valid ||| bit32 t.cmd <<< 1 ||| BitVec.ofNat 32 t.ch.val <<< 8).toNat =
      t.valid.toNat + t.cmd.toNat * 2 ^ 1 + t.ch.val * 2 ^ 8 := by
    rw [or_shiftLeft_toNat] <;> simp only [hflags, BitVec.toNat_ofNat] <;> omega
  rw [packTxp, or_shiftLeft_toNat] <;> simp only [hlow, BitVec.toNat_setWidth] <;> omega

/-! ### The register map -/

theorem exec_regRead_of_some {s : State} {reg : Half} {v : Word} (h : regValue s reg.toNat = some v) :
    exec (.regRead reg) s = .next { s with rsp := { value := v } } := by
  simp only [exec, execRegRead, h]
  rfl

theorem exec_regRead_of_none {s : State} {reg : Half} (h : regValue s reg.toNat = none) :
    exec (.regRead reg) s = .next (rejectedWith .badReg (reg.setWidth 32) s) := by
  simp only [exec, execRegRead, h]
  rfl

theorem regValue_seq (s : State) (c : Channel) : regValue s c.val = some (s.seq[c].setWidth 32) := by
  simp only [regValue, c.isLt, dif_pos]
  rfl

theorem regValue_rspLatch (s : State) (k : Fin 11) : regValue s (0x46 + k.val) = some (s.rspLatch.r[k].setWidth 32) := by
  have h6 : ¬0x46 + k.val < 6 := by omega
  have hr : 0x46 ≤ 0x46 + k.val ∧ 0x46 + k.val < 0x51 := by omega
  simp [regValue, h6, hr]

theorem regValue_cmdSeq (s : State) (id : Fin 256) : regValue s (0x100 + id.val) = some (s.cmdSeq[id].setWidth 32) := by
  have h6 : ¬0x100 + id.val < 6 := by omega
  have hr : ¬(0x46 ≤ 0x100 + id.val ∧ 0x100 + id.val < 0x51) := by omega
  have hc : 0x100 ≤ 0x100 + id.val ∧ 0x100 + id.val < 0x200 := by omega
  simp [regValue, h6, hr, hc, readCmdSeq]

/-- Outside the arrays the map is its list of single registers. -/
theorem regValue_eq_lookup (s : State) {n : Nat} (h6 : ¬n < 6) (hr : ¬(0x46 ≤ n ∧ n < 0x51)) (hc : ¬(0x100 ≤ n ∧ n < 0x200)) :
    regValue s n = (scalarRegs s).lookup n := by
  rw [regValue, dif_neg h6, dif_neg hr, if_neg hc]

theorem scalarRegs_map_fst (s : State) : (scalarRegs s).map Prod.fst =
    [0x10, 0x11, 0x12, 0x13, 0x14, 0x30, 0x31, 0x32, 0x33, 0x40, 0x41, 0x42, 0x43, 0x44, 0x45, 0x60, 0x61] := rfl

theorem exec_regRead_ofNat {s : State} {n : Nat} {v : Word} (hn : n < 2 ^ 16) (h : regValue s n = some v) :
    exec (.regRead (BitVec.ofNat 16 n)) s = .next { s with rsp := { value := v } } := by
  apply exec_regRead_of_some
  rwa [BitVec.toNat_ofNat, Nat.mod_eq_of_lt hn]

/-- Settles O46: each index lies in one range of the map, and its register number fits 16 bits. -/
theorem regReadOfTheArrays : Obligations.RegReadOfTheArrays := by
  intro s
  simp only [BitVec.ofNat_toNat]
  exact ⟨fun c => exec_regRead_ofNat (by omega) (regValue_seq s c),
    fun k => exec_regRead_ofNat (by omega) (regValue_rspLatch s k),
    fun id => exec_regRead_ofNat (by omega) (regValue_cmdSeq s id)⟩

/-- Settles O47: each number is looked up in the map, and what stands there is the field, widened or packed. -/
theorem regReadOfTheSingleRegisters : Obligations.RegReadOfTheSingleRegisters := by
  intro s n v h
  apply exec_regRead_of_some
  rcases h with ⟨rfl, rfl⟩ | ⟨rfl, rfl⟩ | ⟨rfl, rfl, -⟩ | ⟨rfl, rfl, hdepth⟩ | ⟨rfl, rfl⟩ | ⟨rfl, rfl⟩ | ⟨rfl, rfl⟩ | ⟨rfl, rfl⟩ |
    ⟨rfl, rfl⟩ | ⟨rfl, rfl⟩ | ⟨rfl, rfl⟩ | ⟨rfl, rfl⟩ | ⟨rfl, rfl⟩ | ⟨rfl, rfl⟩ | ⟨rfl, rfl⟩ | ⟨rfl, rfl⟩ | ⟨rfl, rfl⟩
  · exact congrArg some (packHdr0_eq s.hdr)
  · refine congrArg some ((packHdr1_eq s.hdr).trans ?_)
    cases s.hdr.cls <;> rfl
  · rfl
  · exact congrArg some (setWidth_depthField hdepth)
  · exact congrArg some (packTxp_eq s.txp)
  · exact congrArg some (bit32_eq s.meValid)
  · exact congrArg some (eq_ofNat_of_toNat_eq rfl)
  · exact congrArg some (bit32_eq s.dcdValid)
  · exact congrArg some (eq_ofNat_of_toNat_eq rfl)
  · exact congrArg some (bit32_eq s.rspLatch.valid)
  all_goals exact congrArg some (BitVec.ofNat_toNat ..).symm

/-- Settles O48: the number is outside the arrays, and differs from every number of the list of single registers. -/
theorem unmappedRegistersAreBadReg : Obligations.UnmappedRegistersAreBadReg := by
  intro n s h
  rw [BitVec.ofNat_toNat]
  apply exec_regRead_of_none
  rw [regValue_eq_lookup s (by omega) (by omega) (by omega), List.lookup_eq_none_iff]
  intro p hp
  have hmem := List.mem_map_of_mem (f := Prod.fst) hp
  rw [scalarRegs_map_fst] at hmem
  simp only [List.mem_cons, List.not_mem_nil, or_false] at hmem
  rw [bne_iff_ne]
  omega

end Sys2Proof.Machine
end

section
/-! SUPPORT. Proofs of the encoding family (30_encoding.md): the decoder, the encoder and the opcode table against one
relation between requests and instructions, the reserved opcodes, and RECEIVE. -/

namespace Sys2Proof

/-! ### The opcode map as a relation -/

/-- The opcode map of R73 and R74, one rule for each row: the request `r` asks for the instruction. -/
inductive Decodes (r : Request) : Instr → Prop where
  | reset (h : r.op = 0x01#8) : Decodes r .reset
  | hdrDecode (h : r.op = 0x02#8) : Decodes r (.hdrDecode r.bytes)
  | hdrEncode (h : r.op = 0x03#8) : Decodes r (.hdrEncode r.ch r.seq r.bytes)
  | txFrame (h : r.op = 0x04#8) : Decodes r (.txFrame r.ch r.bytes)
  | txCommit (h : r.op = 0x05#8) : Decodes r (.txCommit r.ok)
  | rxFrame (h : r.op = 0x06#8) : Decodes r (.rxFrame r.bytes)
  | lenLookup (h : r.op = 0x07#8) : Decodes r (.lenLookup r.id)
  | split (h : r.op = 0x08#8) : Decodes r .split
  | popSlice (h : r.op = 0x09#8) : Decodes r .popSlice
  | cmdIssue (h : r.op = 0x0A#8) : Decodes r (.cmdIssue r.cmd r.params)
  | cmdResponse (h : r.op = 0x0B#8) : Decodes r (.cmdResponse r.bytes r.now)
  | regRead (h : r.op = 0x0C#8) : Decodes r (.regRead r.reg)
  | reserved (h : reservedOp r.op = true) : Decodes r (.reserved r.op)

theorem reservedOp_iff {op : Byte} : reservedOp op = true ↔ op.toNat = 0 ∨ 0x0D ≤ op.toNat := by
  simp [reservedOp]

theorem decodes_decode (r : Request) : Decodes r (decode r) := by
  unfold decode
  split
  next h => exact .reset (BitVec.eq_of_toNat_eq h)
  next h => exact .hdrDecode (BitVec.eq_of_toNat_eq h)
  next h => exact .hdrEncode (BitVec.eq_of_toNat_eq h)
  next h => exact .txFrame (BitVec.eq_of_toNat_eq h)
  next h => exact .txCommit (BitVec.eq_of_toNat_eq h)
  next h => exact .rxFrame (BitVec.eq_of_toNat_eq h)
  next h => exact .lenLookup (BitVec.eq_of_toNat_eq h)
  next h => exact .split (BitVec.eq_of_toNat_eq h)
  next h => exact .popSlice (BitVec.eq_of_toNat_eq h)
  next h => exact .cmdIssue (BitVec.eq_of_toNat_eq h)
  next h => exact .cmdResponse (BitVec.eq_of_toNat_eq h)
  next h => exact .regRead (BitVec.eq_of_toNat_eq h)
  next =>
    refine .reserved (reservedOp_iff.2 ?_)
    simp only [imp_false] at *
    omega

theorem decode_of_reservedOp {r : Request} (h : reservedOp r.op = true) : decode r = .reserved r.op := by
  have hd := decodes_decode r
  generalize decode r = i at hd
  cases hd with
  | reserved => rfl
  | _ hop => rw [hop] at h; exact absurd h (by decide)

/-- The map gives a request one instruction, the decoder's. -/
theorem Decodes.decode_eq {r : Request} {i : Instr} (h : Decodes r i) : decode r = i := by
  cases h with
  | reserved h => exact decode_of_reservedOp h
  | _ h => simp [decode, h]

theorem Decodes.wf {r : Request} {i : Instr} (h : Decodes r i) : i.wf = true := by
  cases h with
  | reserved h => exact h
  | _ => rfl

theorem decodes_encode {i : Instr} (h : i.wf = true) : Decodes (encode i) i := by
  cases i with
  | reset => exact .reset rfl
  | hdrDecode => exact .hdrDecode rfl
  | hdrEncode => exact .hdrEncode rfl
  | txFrame => exact .txFrame rfl
  | txCommit => exact .txCommit rfl
  | rxFrame => exact .rxFrame rfl
  | lenLookup => exact .lenLookup rfl
  | split => exact .split rfl
  | popSlice => exact .popSlice rfl
  | cmdIssue => exact .cmdIssue rfl
  | cmdResponse => exact .cmdResponse rfl
  | regRead => exact .regRead rfl
  | reserved => exact .reserved h

/-- Settles O1: the request of a well-formed instruction is related to it by the opcode map, so it is what the decoder
answers. -/
theorem decodeOfEncodeIsIdentity : Obligations.DecodeOfEncodeIsIdentity :=
  fun _ h => (decodes_encode h).decode_eq

/-- The map reads only the fields R70 says the opcode reads. -/
theorem Decodes.of_sameReadFields {a b : Request} {i : Instr} (h : Decodes a i) (hab : Machine.SameReadFields a b) :
    Decodes b i := by
  obtain ⟨hop, hch, hseq, hbytes, hok, hid, hcmd, hnow, hreg⟩ := hab
  cases h with
  | reset h => exact .reset (hop ▸ h)
  | hdrDecode h =>
    rw [hbytes (by simp [h])]
    exact .hdrDecode (hop ▸ h)
  | hdrEncode h =>
    rw [hch (by simp [h]), hseq h, hbytes (by simp [h])]
    exact .hdrEncode (hop ▸ h)
  | txFrame h =>
    rw [hch (by simp [h]), hbytes (by simp [h])]
    exact .txFrame (hop ▸ h)
  | txCommit h =>
    rw [hok h]
    exact .txCommit (hop ▸ h)
  | rxFrame h =>
    rw [hbytes (by simp [h])]
    exact .rxFrame (hop ▸ h)
  | lenLookup h =>
    rw [hid h]
    exact .lenLookup (hop ▸ h)
  | split h => exact .split (hop ▸ h)
  | popSlice h => exact .popSlice (hop ▸ h)
  | cmdIssue h =>
    obtain ⟨hc, hp⟩ := hcmd h
    rw [hc, hp]
    exact .cmdIssue (hop ▸ h)
  | cmdResponse h =>
    rw [hbytes (by simp [h]), hnow h]
    exact .cmdResponse (hop ▸ h)
  | regRead h =>
    rw [hreg h]
    exact .regRead (hop ▸ h)
  | reserved h =>
    rw [hop] at h ⊢
    exact .reserved h

/-- Settles O2: what the first request asks for, the second asks for too. -/
theorem unreadFieldsHaveNoEffect : Obligations.UnreadFieldsHaveNoEffect :=
  fun a _ hab => ((decodes_decode a).of_sameReadFields hab).decode_eq.symm

/-- The encoder writes back every field the opcode reads. -/
theorem Decodes.sameReadFields_encode {r : Request} {i : Instr} (h : Decodes r i) : Machine.SameReadFields r (encode i) := by
  cases h with
  | reserved h =>
    have hne {op : Byte} (hop : reservedOp op = false) : r.op ≠ op := by
      rintro rfl
      simp [h] at hop
    refine ⟨rfl, ?_, ?_, ?_, ?_, ?_, ?_, ?_, ?_⟩ <;> simp [hne, reservedOp]
  | _ h => simp [Machine.SameReadFields, encode, h]

/-- Settles O3: both halves hold of whatever the opcode map relates the request to. -/
theorem encodeOfDecodeKeepsReadFields : Obligations.EncodeOfDecodeKeepsReadFields :=
  fun r => ⟨(decodes_decode r).wf, (decodes_decode r).sameReadFields_encode⟩

/-- Settles O5: each word is evaluated by the decoder. -/
theorem spelledRequestsDecode : Obligations.SpelledRequestsDecode :=
  ⟨rfl, rfl, rfl, rfl, rfl, rfl, rfl⟩

/-- Settles O49: the decoder's last rule takes every such opcode, and the operation is one `raise`. -/
theorem reservedOpcodesAreIllegal : Obligations.ReservedOpcodesAreIllegal := by
  intro r s hop
  refine ⟨decode_of_reservedOp (reservedOp_iff.2 (hop.imp_left (congrArg BitVec.toNat))), ?_⟩
  rw [BitVec.ofNat_toNat]
  exact Machine.raiseWith_eq_abortedWith (by decide) rfl _ s

/-! ### The opcode table -/

/-- A row whose mask keeps all but the low `k` bits covers a range of `2 ^ k` opcodes. -/
theorem OpRow.covers_iff_range {row : OpRow} {k : Nat} (hmask : row.mask = BitVec.allOnes 8 <<< k)
    (hpattern : 2 ^ k ∣ row.pattern.toNat) (op : Byte) :
    row.covers op = true ↔ row.pattern.toNat ≤ op.toNat ∧ op.toNat < row.pattern.toNat + 2 ^ k := by
  obtain ⟨q, hq⟩ := hpattern
  have hpos := Nat.two_pow_pos k
  have hkept : (op >>> k <<< k).toNat = 2 ^ k * (op.toNat / 2 ^ k) := by
    have := Nat.mul_div_le op.toNat (2 ^ k)
    rw [BitVec.toNat_shiftLeft, BitVec.toNat_ushiftRight, Nat.shiftLeft_eq, Nat.shiftRight_eq_div_pow, Nat.mul_comm]
    exact Nat.mod_eq_of_lt (by omega)
  rw [OpRow.covers, beq_iff_eq, hmask, ← BitVec.shiftLeft_ushiftRight, BitVec.toNat_eq, hkept, hq,
    Nat.mul_left_cancel_iff hpos, Nat.div_eq_iff hpos, Nat.mul_comm q]
  omega

/-- One more than the last opcode a row of the table covers. -/
def OpRow.stop (row : OpRow) : Nat := row.pattern.toNat + (256 - row.mask.toNat)

theorem OpRow.covers_iff {row : OpRow} (h : row ∈ opcodeRows) {op : Byte} :
    row.covers op = true ↔ row.pattern.toNat ≤ op.toNat ∧ op.toNat < row.stop := by
  have hprefix : ∀ row ∈ opcodeRows, ∃ k < 8, row.mask = BitVec.allOnes 8 <<< k ∧ 2 ^ k ∣ row.pattern.toNat ∧
      256 - row.mask.toNat = 2 ^ k := by decide
  obtain ⟨k, -, hmask, hpattern, hsize⟩ := hprefix row h
  rw [covers_iff_range hmask hpattern, stop, hsize]

/-- No two rows of the table share an opcode: their ranges are disjoint. -/
theorem opcodeRows_disjoint (op : Byte) : opcodeRows.Pairwise fun a b => ¬(a.covers op = true ∧ b.covers op = true) := by
  have hranges : opcodeRows.Pairwise fun a b => a.stop ≤ b.pattern.toNat ∨ b.stop ≤ a.pattern.toNat := by decide
  refine hranges.imp_of_mem fun ha hb hab => ?_
  rw [OpRow.covers_iff ha, OpRow.covers_iff hb]
  omega

/-- The seven RESERVED rows leave no reserved opcode out. -/
theorem exists_reserved_row {op : Byte} (h : reservedOp op = true) :
    ∃ row ∈ opcodeRows, row.covers op = true ∧ row.mnemonic = "RESERVED" := by
  have hrange : ∃ row ∈ opcodeRows, (row.pattern.toNat ≤ op.toNat ∧ op.toNat < row.stop) ∧ row.mnemonic = "RESERVED" := by
    have hlt := op.isLt
    rw [reservedOp_iff] at h
    have hparts : op.toNat = 0 ∨ (13 ≤ op.toNat ∧ op.toNat < 14) ∨ (14 ≤ op.toNat ∧ op.toNat < 16) ∨
        (16 ≤ op.toNat ∧ op.toNat < 32) ∨ (32 ≤ op.toNat ∧ op.toNat < 64) ∨ (64 ≤ op.toNat ∧ op.toNat < 128) ∨
        (128 ≤ op.toNat ∧ op.toNat < 256) := by omega
    simpa [opcodeRows, OpRow.stop] using hparts
  obtain ⟨row, hrow, hcovers, hname⟩ := hrange
  exact ⟨row, hrow, (OpRow.covers_iff hrow).2 hcovers, hname⟩

theorem Decodes.exists_row {r : Request} {i : Instr} (h : Decodes r i) :
    ∃ row ∈ opcodeRows, row.covers r.op = true ∧ row.mnemonic = i.mnemonic := by
  cases h with
  | reserved h => exact exists_reserved_row h
  | _ h =>
    rw [h, Instr.mnemonic]
    decide

theorem filter_eq_singleton {α : Type} {p : α → Bool} {l : List α} (hl : l.Pairwise fun a b => ¬(p a = true ∧ p b = true))
    {a : α} (ha : a ∈ l) (hp : p a = true) : l.filter p = [a] := by
  induction l with
  | nil => exact absurd ha List.not_mem_nil
  | cons b l ih =>
    obtain ⟨hb, hl⟩ := List.pairwise_cons.1 hl
    obtain rfl | ha := List.mem_cons.1 ha
    · rw [List.filter_cons_of_pos hp, List.filter_eq_nil_iff.2 fun c hc hpc => hb c hc ⟨hp, hpc⟩]
    · rw [List.filter_cons_of_neg fun hpb => hb a ha ⟨hpb, hp⟩, ih hl ha]

/-- Settles O4: a row with the decoder's mnemonic covers the opcode, and no second row does. -/
theorem opcodeRowsCoverEachValueOnce : Obligations.OpcodeRowsCoverEachValueOnce := by
  intro r
  obtain ⟨row, hrow, hcovers, hname⟩ := (decodes_decode r).exists_row
  rw [filter_eq_singleton (opcodeRows_disjoint r.op) hrow hcovers, List.map_singleton, hname]

end Sys2Proof

namespace Sys2Proof.Machine

/-! ### DRAIN and RECEIVE (R76) -/

/-- What POP_SLICE answers when it hands out the slice (R128). -/
def sliceResponse (e : Slice) : Response := { valid := true, id := e.id, len := e.len, bytes := e.bytes }

theorem exec_popSlice_of_nil {s : State} (h : s.stk = []) : exec .popSlice s = .next { s with rsp := {} } := by
  have hlast : s.stk.getLast? = none := by rw [h, List.getLast?_nil]
  simp only [exec, execPopSlice, hlast]
  rfl

theorem exec_popSlice_of_concat {s : State} {l : List Slice} {e : Slice} (h : s.stk = l ++ [e]) :
    exec .popSlice s = .next { s with stk := l, rsp := sliceResponse e } := by
  simp only [exec, execPopSlice, h, List.getLast?_concat, List.dropLast_concat]
  rfl

/-- Draining hands out the stack's slices, the one pushed last first, and then meets the empty stack. -/
theorem drain_eq (s : State) : drain s = (s.stk.reverse.map sliceResponse, { s with stk := [], rsp := {} }) := by
  rw [drain]
  generalize hl : s.stk = l
  induction l using List.reverseRecOn generalizing s with
  | nil =>
    rw [List.length_nil, drainLoop, exec_popSlice_of_nil hl, hl]
    rfl
  | append_singleton l e ih =>
    rw [List.length_append, drainLoop, exec_popSlice_of_concat hl]
    simp [sliceResponse, ih]

/-- The packet of whole reports that fit is cut into exactly those (R124, R125). -/
theorem exec_split_of_joined {s : State} {l : List Slice} (hgood : ∀ e ∈ l, GoodSlice s.cfg e) (hpkt : s.pkt = joined l)
    (hroom : HasRoom s l.length) :
    exec .split s = .next { s with stk := s.stk ++ l, rsp := { count := BitVec.ofNat 16 l.length } } := by
  have hloop : splitLoop s.cfg s.pkt.length 0 s.stk.length s.pkt = .slices l := by
    have hlen : l.length ≤ s.pkt.length := hpkt ▸ length_le_joined hgood
    have happend := splitLoop_append hgood (off := 0) (rest := []) hlen hroom
    rw [List.append_nil, ← hpkt] at happend
    rw [happend, splitLoop, foldr_push_slices, List.append_nil]
  simp only [exec, execSplit, hloop]
  rfl

theorem runOps_singleton_of_next {i : Instr} {s t : State} (h : exec i s = .next t) : runOps [i] s = ([t.rsp], t) :=
  runOps_cons_of_next h []

theorem receive_of_status_ne_ok {f : Bytes} {s t : State} (h : exec (.rxFrame f) s = .next t) (hst : t.rsp.status ≠ .ok) :
    receive f s = ([t.rsp], t) := by
  simp only [receive, runOps_singleton_of_next h, hst, if_false]

theorem receive_of_split {f : Bytes} {s t u : State} (h : exec (.rxFrame f) s = .next t) (hst : t.rsp.status = .ok)
    (hu : exec .split t = .next u) : receive f s = (t.rsp :: u.rsp :: (drain u).1, (drain u).2) := by
  simp only [receive, runOps_singleton_of_next h, runOps_singleton_of_next hu, hst, if_true, List.cons_append, List.nil_append]

/-- RX_FRAME leaves the slices on the stack (R108). -/
theorem exec_rxFrame_stk {f : Bytes} {s t : State} (h : exec (.rxFrame f) s = .next t) : t.stk = s.stk := by
  obtain ⟨u, hw, r, seen, last, rfl, -⟩ := exec_next_writes h
  exact hw.stk (by simp) (by simp) (by simp)

/-- Settles O35: the SPLIT and the DRAIN run in the state RX_FRAME leaves, whose configuration and stack are those
before it. -/
theorem receiveHandsOutTheBatch : Obligations.ReceiveHandsOutTheBatch := by
  intro f s t h
  refine ⟨receive_of_status_ne_ok h, fun l hst hgood hpkt hroom => ?_⟩
  rw [← exec_cfg h] at hgood
  have hroomt : HasRoom t l.length := by rwa [HasRoom, exec_cfg h, exec_rxFrame_stk h]
  rw [receive_of_split h hst (exec_split_of_joined hgood hpkt hroomt), drain_eq, ← exec_rxFrame_stk h, List.reverse_append]
  rfl

end Sys2Proof.Machine
end

section
/-! SUPPORT. Proofs of the packet codec family (40_packet_codec.md): the fields and the class of a decoded header by its
bytes, HDR_DECODE and HDR_ENCODE, and what the continuation flag changes of a received frame. -/

namespace Sys2Proof.Machine

/-! ### The fields of a decoded header (R80) -/

theorem le16_eq_ofNat (lo hi : Byte) : le16 lo hi = BitVec.ofNat 16 (lo.toNat + 256 * hi.toNat) := by
  rw [← le16_toNat, BitVec.ofNat_toNat, BitVec.setWidth_eq]

theorem decodeHeader_cont (mode : AllOnesMode) (h0 h1 h2 h3 : Byte) :
    (decodeHeader mode h0 h1 h2 h3).cont = decide (0x8000 ≤ h0.toNat + 256 * h1.toNat) := by
  rw [← le16_toNat]
  exact BitVec.msb_eq_decide (le16 h0 h1)

theorem Hdr.eq_of_fields_eq {a b : Hdr} (bc : a.bc = b.bc) (cont : a.cont = b.cont) (ch : a.ch = b.ch) (seq : a.seq = b.seq)
    (dlen : a.dlen = b.dlen) (cls : a.cls = b.cls) : a = b := by
  cases a
  cases b
  rw [Hdr.mk.injEq]
  exact ⟨bc, cont, ch, seq, dlen, cls⟩

/-- Settles O15: the clamped length is the natural subtraction, and the other fields are read off the count word. -/
theorem decodeHeaderSplitsTheCountWord : Obligations.DecodeHeaderSplitsTheCountWord := by
  intro mode h0 h1 h2 h3 raw h
  have hbc : h.bc.toNat = raw % 0x8000 := decodeHeader_bc_toNat mode h0 h1 h2 h3
  have hdlen : h.dlen.toNat = h.bc.toNat - 4 := decodeHeader_dlen_toNat mode h0 h1 h2 h3
  refine ⟨hbc, decodeHeader_cont mode h0 h1 h2 h3, rfl, rfl, ?_, ?_⟩
  · rw [hdlen, hbc]
    split <;> omega
  · rw [← le16_eq_ofNat]
    rfl

/-! ### The class of a decoded header (R82) -/

theorem le16_eq_allOnes_iff {lo hi : Byte} : le16 lo hi = 0xFFFF#16 ↔ lo = 0xFF#8 ∧ hi = 0xFF#8 := by
  have hlo := lo.isLt
  have hhi := hi.isLt
  simp only [← BitVec.toNat_inj, le16_toNat, BitVec.toNat_ofNat]
  omega

theorem decodeHeader_bc_eq_zero_iff {mode : AllOnesMode} {h0 h1 h2 h3 : Byte} :
    (decodeHeader mode h0 h1 h2 h3).bc = 0#15 ↔ h0.toNat + 256 * (h1.toNat % 128) = 0 := by
  have h0lt := h0.isLt
  rw [← BitVec.toNat_inj, decodeHeader_bc_toNat, BitVec.toNat_ofNat]
  omega

/-- Under MASKED the count compared has 15 bits, so it is never all ones and the test never fires. -/
theorem setWidth_ne_allOnes (bc : BitVec 15) : bc.setWidth 16 ≠ 0xFFFF#16 := by
  have hbc := bc.isLt
  rw [Ne, ← BitVec.toNat_inj, BitVec.toNat_setWidth, BitVec.toNat_ofNat]
  omega

/-- Settles O16: the tests of `classify` in their order, each said of the bytes it reads. -/
theorem headerClassByItsBytes : Obligations.HeaderClassByItsBytes := by
  intro mode h0 h1 h2 h3
  simp only [← decodeHeader_bc_eq_zero_iff (mode := mode) (h2 := h2) (h3 := h3)]
  cases mode with
  | raw => simp only [decodeHeader, classify, le16_eq_allOnes_iff, true_and, and_assoc]
  | masked => simp only [decodeHeader, classify, setWidth_ne_allOnes, reduceCtorEq, false_and]

/-! ### HDR_DECODE and HDR_ENCODE (R84, R85) -/

theorem exec_hdrDecode_cons (h0 h1 h2 h3 : Byte) (more : Bytes) (s : State) :
    exec (.hdrDecode (h0 :: h1 :: h2 :: h3 :: more)) s =
      .next { s with rsp := { hdr := decodeHeader s.cfg.allOnesMode h0 h1 h2 h3 } } := rfl

theorem exec_hdrDecode_of_length_lt {b : Bytes} (hb : b.length < 4) (s : State) :
    exec (.hdrDecode b) s = .next (rejectedWith .rxShort (BitVec.ofNat 32 b.length) s) := by
  simp only [exec, execHdrDecode]
  split
  · simp only [List.length_cons] at hb
    omega
  · rw [infoOfLen_of_lt (by omega)]
    rfl

/-- Settles O17, a clause for each arm of HDR_DECODE. -/
theorem hdrDecodeResult : Obligations.HdrDecodeResult :=
  fun s => ⟨fun h0 h1 h2 h3 more => exec_hdrDecode_cons h0 h1 h2 h3 more s, fun _ hb => exec_hdrDecode_of_length_lt hb s⟩

section
variable {ch : Byte} {p : Bytes}

theorem exec_hdrEncode_of_le (hch : ch.toNat ≤ 5) (hp : p.length ≤ 0x7FFB) (q : Byte) (s : State) :
    exec (.hdrEncode ch q p) s = .next { s with rsp := { bytes := encodeFrame ch q p } } := by
  simp only [exec, execHdrEncode, if_neg hch.not_gt, if_neg hp.not_gt]
  rfl

theorem exec_hdrEncode_of_badChannel (hch : 5 < ch.toNat) (q : Byte) (s : State) :
    exec (.hdrEncode ch q p) s = .next (rejectedWith .badChannel (BitVec.ofNat 32 ch.toNat) s) := by
  simp only [exec, execHdrEncode, if_pos hch, BitVec.ofNat_toNat]
  rfl

theorem exec_hdrEncode_of_oversize (hch : ch.toNat ≤ 5) (hp : 0x7FFB < p.length) (q : Byte) (s : State) :
    exec (.hdrEncode ch q p) s = .next (rejectedWith .oversize (infoOfLen p.length) s) := by
  simp only [exec, execHdrEncode, if_neg hch.not_gt, if_pos hp]
  rfl

end

/-- Settles O18, a clause for each branch of HDR_ENCODE. -/
theorem hdrEncodeResult : Obligations.HdrEncodeResult := by
  intro ch q p s
  refine ⟨fun hch hp => ?_, fun hch => exec_hdrEncode_of_badChannel hch q s, fun hch hp =>
    ⟨infoOfLen p.length, infoOfLen_toNat, exec_hdrEncode_of_oversize hch hp q s⟩⟩
  rw [exec_hdrEncode_of_le hch hp, encodeFrame_eq ch q hp]

/-! ### Encoding and then decoding (R88) -/

/-- A header whose count is that of a frame with `n` payload bytes decodes to that length, in the class VALID. -/
theorem decodeHeader_of_count {n : Nat} (hn : n ≤ 0x7FFB) {h0 h1 : Byte} (hcount : h0.toNat + 256 * h1.toNat = n + 4)
    (mode : AllOnesMode) {ch : Byte} (hch : ch.toNat ≤ 5) (q : Byte) : decodeHeader mode h0 h1 ch q =
      { bc := BitVec.ofNat 15 (n + 4), cont := false, ch := ch, seq := q, dlen := BitVec.ofNat 16 n, cls := .valid } := by
  have hcls := headerClassByItsBytes mode h0 h1 ch q
  have hones : h1 ≠ 0xFF#8 := by
    rintro rfl
    simp only [BitVec.toNat_ofNat] at hcount
    omega
  rw [if_neg hch.not_gt, if_neg fun ⟨_, _, hhigh, _⟩ => hones hhigh, if_neg (by omega)] at hcls
  obtain ⟨hbc, hcont, hch', hseq, hdlen, -⟩ := decodeHeaderSplitsTheCountWord mode h0 h1 ch q
  rw [hcount] at hbc hcont hdlen
  refine Hdr.eq_of_fields_eq ?_ ?_ hch' hseq ?_ hcls
  · rw [← BitVec.toNat_inj, hbc, BitVec.toNat_ofNat]
  · rw [hcont, decide_eq_false_iff_not]
    omega
  · rw [← BitVec.toNat_inj, hdlen, if_pos (by omega), BitVec.toNat_ofNat]
    omega

/-- Settles O19: the frame is its four header bytes and the payload, and those bytes decode back. -/
theorem encodedFrameDecodesBack : Obligations.EncodedFrameDecodesBack := by
  intro ch q p s hch hp
  have henc := exec_hdrEncode_of_le hch hp q s
  rw [encodeFrame_eq ch q hp] at henc
  refine ⟨_, _, henc, exec_hdrDecode_cons .., rfl, decodeHeader_of_count hp ?_ _ hch q, rfl⟩
  simp only [BitVec.toNat_ofNat]
  omega

/-! ### The continuation flag of a received frame (R86) -/

/-- Bit 7 of byte 1, the continuation flag, is worth 128 there. -/
theorem xor_flag_toNat (h1 : Byte) : (h1 ^^^ 0x80#8).toNat = (h1.toNat + 128) % 256 := by
  revert h1
  decide

/-- Once the bits of a mask are set, it no longer matters whether they were flipped. -/
theorem xor_or_mask {w : Nat} (x mask : BitVec w) : (x ^^^ mask) ||| mask = x ||| mask := by
  ext i hi
  rw [BitVec.getElem_or, BitVec.getElem_or, BitVec.getElem_xor]
  cases mask[i]
  · rw [Bool.xor_false]
  · rw [Bool.or_true, Bool.or_true]

section
variable {mode : AllOnesMode} {h0 h1 h2 h3 : Byte}

theorem decodeHeader_bc_xor_flag :
    (decodeHeader mode h0 (h1 ^^^ 0x80#8) h2 h3).bc = (decodeHeader mode h0 h1 h2 h3).bc := by
  simp only [← BitVec.toNat_inj, decodeHeader_bc_toNat, xor_flag_toNat]
  omega

theorem decodeHeader_cont_xor_flag :
    (decodeHeader mode h0 (h1 ^^^ 0x80#8) h2 h3).cont = !(decodeHeader mode h0 h1 h2 h3).cont := by
  have h0lt := h0.isLt
  have h1lt := h1.isLt
  rw [decodeHeader_cont, decodeHeader_cont, xor_flag_toNat, ← decide_not, decide_eq_decide]
  omega

variable (hones : ¬(mode = .raw ∧ h0 = 0xFF#8 ∧ h1 ||| 0x80#8 = 0xFF#8 ∧ h2.toNat ≤ 5 ∧ h3 = 0xFF#8))
include hones

/-- The all-ones test can fire for neither setting of the flag, or it would for byte 1 with the flag set: the case `hones`
rules out (R82, R86). -/
theorem decodeHeader_cls_xor_flag :
    (decodeHeader mode h0 (h1 ^^^ 0x80#8) h2 h3).cls = (decodeHeader mode h0 h1 h2 h3).cls := by
  rw [headerClassByItsBytes mode h0 (h1 ^^^ 0x80#8) h2 h3, headerClassByItsBytes mode h0 h1 h2 h3]
  by_cases hch : 5 < h2.toNat
  · rw [if_pos hch, if_pos hch]
  · have hnot {b : Byte} (hb : b ||| 0x80#8 = h1 ||| 0x80#8) :
        ¬(mode = .raw ∧ h0 = 0xFF#8 ∧ b = 0xFF#8 ∧ h3 = 0xFF#8) := by
      rintro ⟨hmode, hlow, rfl, hseq⟩
      exact hones ⟨hmode, hlow, hb.symm, Nat.le_of_not_lt hch, hseq⟩
    have hcount : (h1 ^^^ 0x80#8).toNat % 128 = h1.toNat % 128 := by
      rw [xor_flag_toNat]
      omega
    rw [if_neg hch, if_neg hch, if_neg (hnot (xor_or_mask h1 0x80#8)), if_neg (hnot rfl), hcount]

theorem decodeHeader_xor_flag : decodeHeader mode h0 (h1 ^^^ 0x80#8) h2 h3 =
    { decodeHeader mode h0 h1 h2 h3 with cont := !(decodeHeader mode h0 h1 h2 h3).cont } := by
  refine Hdr.eq_of_fields_eq decodeHeader_bc_xor_flag decodeHeader_cont_xor_flag rfl rfl ?_ (decodeHeader_cls_xor_flag hones)
  rw [← BitVec.toNat_inj, decodeHeader_dlen_toNat, decodeHeader_bc_xor_flag, ← decodeHeader_dlen_toNat]

end

/-! ### RX_FRAME by the class of the decoded header (R108) -/

theorem decodeHeader_exists_chan (mode : AllOnesMode) (h0 h1 h2 h3 : Byte)
    (hcls : (decodeHeader mode h0 h1 h2 h3).cls ≠ .error) : ∃ c : Channel, c.val = (decodeHeader mode h0 h1 h2 h3).ch.toNat :=
  (decodeHeader_cls mode h0 h1 h2 h3).2 hcls

section
variable {s : State} {h0 h1 h2 h3 : Byte} {p : Bytes} {h : Hdr} (hd : decodeHeader s.cfg.allOnesMode h0 h1 h2 h3 = h)
include hd

theorem exec_rxFrame_of_error (hcls : h.cls = .error) : exec (.rxFrame (h0 :: h1 :: h2 :: h3 :: p)) s = .next { s with
    hdr := h, pkt := [], errSeen := s.errSeen ||| errBit .hdrError, lastErr := statusCode .hdrError
    rsp := { status := .hdrError, hdr := h, info := h.ch.setWidth 32 } } := by
  simp only [exec, execRxFrame, hd, hcls]
  rfl

theorem exec_rxFrame_of_empty (hcls : h.cls = .empty) {c : Channel} (hc : c.val = h.ch.toNat) :
    exec (.rxFrame (h0 :: h1 :: h2 :: h3 :: p)) s = .next { s with
      hdr := h, pkt := [], seq := s.seq.set c h.seq, errSeen := s.errSeen ||| errBit .framing, lastErr := statusCode .framing
      rsp := { status := .framing, hdr := h } } := by
  simp only [exec, execRxFrame, hd, hcls, mirrorSeq_of_chan (chan?_eq_some_iff.2 hc)]
  rfl

theorem exec_rxFrame_of_short (hcls : h.cls = .valid) (hp : p.length < h.dlen.toNat) :
    exec (.rxFrame (h0 :: h1 :: h2 :: h3 :: p)) s = raiseWith .rxShort (infoOfLen (4 + p.length)) s := by
  simp only [exec, execRxFrame, hd, hcls, if_pos hp]

theorem exec_rxFrame_of_valid (hcls : h.cls = .valid) (hp : h.dlen.toNat ≤ p.length) {c : Channel} (hc : c.val = h.ch.toNat) :
    exec (.rxFrame (h0 :: h1 :: h2 :: h3 :: p)) s = .next { s with
      hdr := h, pkt := p.take h.dlen.toNat, seq := s.seq.set c h.seq, rsp := { hdr := h } } := by
  simp only [exec, execRxFrame, hd, hcls, if_neg hp.not_gt, mirrorSeq_of_chan (chan?_eq_some_iff.2 hc)]
  rfl

end

/-- Settles O20: the flipped frame decodes to the same header but for the flag, and no class of frame reads the flag. -/
theorem continuationFlagIsIgnored : Obligations.ContinuationFlagIsIgnored := by
  intro s t h0 h1 h2 h3 p hones ht
  have hflip := decodeHeader_xor_flag hones
  obtain ⟨hnone, -⟩ := decodeHeader_cls s.cfg.allOnesMode h0 h1 h2 h3
  have hchan := decodeHeader_exists_chan s.cfg.allOnesMode h0 h1 h2 h3
  generalize hd : decodeHeader s.cfg.allOnesMode h0 h1 h2 h3 = h at hflip hnone hchan
  cases hcls : h.cls with
  | none => exact absurd hcls hnone
  | error =>
    rw [exec_rxFrame_of_error hd hcls] at ht
    cases ht
    exact exec_rxFrame_of_error hflip hcls
  | empty =>
    obtain ⟨c, hc⟩ := hchan (by simp [hcls])
    rw [exec_rxFrame_of_empty hd hcls hc] at ht
    cases ht
    exact exec_rxFrame_of_empty hflip hcls hc
  | valid =>
    obtain hp | hp := Nat.lt_or_ge p.length h.dlen.toNat
    · rw [exec_rxFrame_of_short hd hcls hp] at ht
      cases ht
      exact exec_rxFrame_of_short hflip hcls hp
    · obtain ⟨c, hc⟩ := hchan (by simp [hcls])
      rw [exec_rxFrame_of_valid hd hcls hp hc] at ht
      cases ht
      exact exec_rxFrame_of_valid hflip hcls hp hc

end Sys2Proof.Machine
end

section
/-! SUPPORT. Proofs of the channel sequencer family (41_channel_sequencer.md): what TX_FRAME, TX_COMMIT and RX_FRAME do to
the channel counters and the pending-transmit register, alone and one after another. -/

namespace Sys2Proof.Machine

/-! ### TX_FRAME (R100) -/

section
variable {ch : Byte} {p : Bytes}

theorem exec_txFrame_of_le {c : Channel} (hc : c.val = ch.toNat) (hp : p.length ≤ 0x7FFB) (s : State) :
    exec (.txFrame ch p) s = .next { s with
      txp := { valid := true, cmd := false, ch := c, code := 0#8 }, rsp := { bytes := encodeFrame ch s.seq[c] p } } := by
  simp only [exec, execTxFrame, chan?_eq_some_iff.2 hc, if_neg hp.not_gt]
  rfl

theorem exec_txFrame_of_badChannel (hch : 5 < ch.toNat) (s : State) :
    exec (.txFrame ch p) s = .next (abortedWith .badChannel 0x06 (BitVec.ofNat 32 ch.toNat) s) := by
  simp only [exec, execTxFrame, chan?_eq_none_iff.2 hch, BitVec.ofNat_toNat]
  rfl

theorem exec_txFrame_of_oversize (hch : ch.toNat ≤ 5) (hp : 0x7FFB < p.length) (s : State) :
    exec (.txFrame ch p) s = .next (abortedWith .oversize 0x07 (infoOfLen p.length) s) := by
  have hc : chan? ch = some ⟨ch.toNat, by omega⟩ := chan?_eq_some_iff.2 rfl
  simp only [exec, execTxFrame, hc, if_pos hp]
  rfl

/-- A frame is built only on a channel that exists and with a payload that fits. -/
theorem exists_chan_of_exec_txFrame_ok {s t : State} (h : exec (.txFrame ch p) s = .next t) (hok : t.rsp.status = .ok) :
    ∃ c : Channel, c.val = ch.toNat ∧ p.length ≤ 0x7FFB := by
  by_cases hch : 5 < ch.toNat
  · rw [exec_txFrame_of_badChannel hch] at h
    cases h
    cases hok
  · by_cases hp : 0x7FFB < p.length
    · rw [exec_txFrame_of_oversize (by omega) hp] at h
      cases h
      cases hok
    · exact ⟨⟨ch.toNat, by omega⟩, rfl, by omega⟩

end

/-- Settles O21, a clause for each branch of TX_FRAME. -/
theorem txFrameResult : Obligations.TxFrameResult := by
  intro ch p s
  refine ⟨fun c hc hp => ?_, fun hch => exec_txFrame_of_badChannel hch s, fun hch hp =>
    ⟨infoOfLen p.length, infoOfLen_toNat, exec_txFrame_of_oversize hch hp s⟩⟩
  rw [exec_txFrame_of_le hc hp, encodeFrame_eq ch _ hp]

/-! ### CMD_ISSUE (R140) -/

theorem exec_cmdIssue_of_le {q : Bytes} (hq : q.length ≤ 9) (k : Byte) (s : State) :
    exec (.cmdIssue k q) s = .next { s with
      txp := { valid := true, cmd := true, ch := 2, code := k }
      rsp := { bytes := encodeFrame 2#8 s.seq[2] (commandPayload s.cmdSeq[0xF2] k q) } } := by
  simp only [exec, execCmdIssue, if_neg hq.not_gt]
  rfl

theorem exec_cmdIssue_of_tooMany {q : Bytes} (hq : 9 < q.length) (k : Byte) (s : State) :
    exec (.cmdIssue k q) s = .next (abortedWith .tooManyParams 0x08 (infoOfLen q.length) s) := by
  simp only [exec, execCmdIssue, if_pos hq]
  rfl

/-! ### TX_COMMIT (R104) -/

section
variable {s : State}

/-- A committed plain frame moves its channel's counter on. -/
theorem applySend_of_plain (hcmd : s.txp.cmd = false) : applySend s = bumpSeq s.txp.ch s := by
  simp only [applySend, hcmd, Bool.false_eq_true, if_false]

/-- A committed command frame also moves the command sequence on and re-arms the latch of its code (R142, R144). -/
theorem applySend_of_cmd (hcmd : s.txp.cmd = true) :
    applySend s = rearmLatches s.txp.code (bumpCmdSeq Config.idCmdReq (bumpSeq s.txp.ch s)) := by
  simp only [applySend, hcmd, if_true]

theorem rearmLatches_eq (code : Byte) (s : State) : rearmLatches code s = { s with
    meValid := s.meValid && !decide (code = s.cfg.cmdMeCalibrate)
    dcdValid := s.dcdValid && !decide (code = s.cfg.cmdSaveDcd) } := by
  simp only [rearmLatches, Bool.if_false_left, Bool.and_comm]

theorem exec_txCommit_true (hv : s.txp.valid = true) :
    exec (.txCommit true) s = .next { applySend s with txp := {}, rsp := {} } := by
  simp only [exec, execTxCommit, hv, if_true]
  rfl

theorem exec_txCommit_false (hv : s.txp.valid = true) : exec (.txCommit false) s = .next { s with txp := {}, rsp := {} } := by
  simp only [exec, execTxCommit, hv, if_true]
  rfl

theorem exec_txCommit_of_idle (hv : s.txp.valid = false) (ok : Bool) :
    exec (.txCommit ok) s = .next (abortedWith .noPendingTx 0x0C 0#32 s) := by
  simp only [exec, execTxCommit, hv]
  rfl

end

/-- Settles O22: what a commit writes is `applySend` by the kind of the pending frame. -/
theorem txCommitResult : Obligations.TxCommitResult := by
  refine fun s => ⟨fun hv hcmd => ?_, fun hv hcmd => ?_, exec_txCommit_false, exec_txCommit_of_idle⟩
  · rw [exec_txCommit_true hv, applySend_of_plain hcmd]
    rfl
  · rw [exec_txCommit_true hv, applySend_of_cmd hcmd, rearmLatches_eq]
    rfl

/-! ### RX_FRAME (R108, R109) -/

theorem exec_rxFrame_of_length_lt {f : Bytes} (hf : f.length < 4) (s : State) :
    exec (.rxFrame f) s = .next (abortedWith .rxShort 0x09 (BitVec.ofNat 32 f.length) s) := by
  simp only [exec, execRxFrame]
  split
  · simp only [List.length_cons] at hf
    omega
  · rw [infoOfLen_of_lt (by omega)]
    rfl

/-- Settles O23, a clause for each branch of RX_FRAME. -/
theorem rxFrameResult : Obligations.RxFrameResult := by
  refine fun s => ⟨fun f hf => exec_rxFrame_of_length_lt hf s, fun h0 h1 h2 h3 p h hd => ?_⟩
  have hch : h.ch = h2 := by rw [hd]; rfl
  have hseq : h.seq = h3 := by rw [hd]; rfl
  subst hch hseq
  refine ⟨fun hcls => ?_, fun hcls c hc => exec_rxFrame_of_empty hd.symm hcls hc, fun hcls hp => ?_,
    fun hcls hp c hc => exec_rxFrame_of_valid hd.symm hcls hp hc⟩
  · rw [exec_rxFrame_of_error hd.symm hcls, BitVec.ofNat_toNat]
    rfl
  · have hlt := h.dlen.isLt
    rw [exec_rxFrame_of_short hd.symm hcls hp, infoOfLen_of_lt (by omega), Nat.add_comm]
    rfl

/-- Settles O24: a frame is read the same in both states, and in each class it is answered the same. -/
theorem receivedSequenceIsMirroredUnchecked : Obligations.ReceivedSequenceIsMirroredUnchecked := by
  intro f s s' hcfg
  match f with
  | h0 :: h1 :: h2 :: h3 :: p =>
    obtain ⟨hnone, -⟩ := decodeHeader_cls s.cfg.allOnesMode h0 h1 h2 h3
    have hchan := decodeHeader_exists_chan s.cfg.allOnesMode h0 h1 h2 h3
    generalize hd : decodeHeader s.cfg.allOnesMode h0 h1 h2 h3 = h at hnone hchan
    have hd' : decodeHeader s'.cfg.allOnesMode h0 h1 h2 h3 = h := hcfg ▸ hd
    cases hcls : h.cls with
    | none => exact absurd hcls hnone
    | error => exact ⟨_, _, exec_rxFrame_of_error hd hcls, exec_rxFrame_of_error hd' hcls, rfl, nofun, fun _ _ => rfl⟩
    | empty =>
      obtain ⟨c, hc⟩ := hchan (by simp [hcls])
      exact ⟨_, _, exec_rxFrame_of_empty hd hcls hc, exec_rxFrame_of_empty hd' hcls hc, rfl, fun _ => ⟨c, hc, rfl, rfl⟩,
        fun _ hst => absurd rfl hst⟩
    | valid =>
      obtain hp | hp := Nat.lt_or_ge p.length h.dlen.toNat
      · exact ⟨_, _, exec_rxFrame_of_short hd hcls hp, exec_rxFrame_of_short hd' hcls hp, rfl, nofun, fun _ _ => rfl⟩
      · obtain ⟨c, hc⟩ := hchan (by simp [hcls])
        exact ⟨_, _, exec_rxFrame_of_valid hd hcls hp hc, exec_rxFrame_of_valid hd' hcls hp hc, rfl,
          fun _ => ⟨c, hc, rfl, rfl⟩, fun hst => absurd rfl hst⟩
  | [] | [_] | [_, _] | [_, _, _] =>
    exact ⟨_, _, exec_rxFrame_of_length_lt (by simp) s, exec_rxFrame_of_length_lt (by simp) s', rfl, nofun, fun _ _ => rfl⟩

/-- An accepted frame leaves its sequence as the counter of its channel. -/
theorem exec_rxFrame_ok_mirrors {f : Bytes} {s t : State} (h : exec (.rxFrame f) s = .next t) (hok : t.rsp.status = .ok) :
    ∃ c : Channel, c.val = t.rsp.hdr.ch.toNat ∧ t.seq[c] = t.rsp.hdr.seq := by
  obtain ⟨t', _, ht, -, -, hmirror, -⟩ := receivedSequenceIsMirroredUnchecked f s s rfl
  cases ht.symm.trans h
  obtain ⟨c, hc, hseq, -⟩ := hmirror (.inl hok)
  exact ⟨c, hc, by rw [hseq]; simp⟩

/-! ### Operations one after another (R102, R106, R110) -/

/-- Settles O25: the counter that TX_FRAME reads is the one the received sequence was mirrored to. -/
theorem nextFrameCarriesTheMirroredSequence : Obligations.NextFrameCarriesTheMirroredSequence := by
  intro f p s t h hok hp
  obtain ⟨c, hc, hseq⟩ := exec_rxFrame_ok_mirrors h hok
  refine ⟨_, exec_txFrame_of_le hc hp t, rfl, ?_⟩
  rw [encodeFrame_eq _ _ hp, hseq]
  rfl

/-- Settles O27: the receive in between leaves the pending frame, and the counter it overwrites is the one committed. -/
theorem commitIncrementsTheCurrentValue : Obligations.CommitIncrementsTheCurrentValue := by
  intro ch p f s t u ht htok hu huok hch
  obtain ⟨c, hc, hp⟩ := exists_chan_of_exec_txFrame_ok ht htok
  obtain ⟨c', hc', hseq⟩ := exec_rxFrame_ok_mirrors hu huok
  obtain rfl : c' = c := Fin.ext (by rw [hc', hch, hc])
  have htxp : u.txp = t.txp := by
    obtain ⟨w, hw, r, seen, last, rfl, -⟩ := exec_next_writes hu
    exact hw.txp nofun nofun nofun nofun
  rw [exec_txFrame_of_le hc hp] at ht
  cases ht
  refine ⟨_, exec_txCommit_true (by rw [htxp]), ?_, rfl⟩
  simp only [applySend_seq, htxp, hseq]

/-- An operation that builds a frame writes `TXP` and its response only, and reads neither of them (R102). -/
theorem exec_build_of_ok {i : Instr} (hi : (∃ ch p, i = .txFrame ch p) ∨ ∃ k q, i = .cmdIssue k q) {s t : State}
    (h : exec i s = .next t) (hok : t.rsp.status = .ok) :
    (∃ x r, t = { s with txp := x, rsp := r }) ∧ ∀ x r, exec i { s with txp := x, rsp := r } = .next t := by
  obtain ⟨ch, p, rfl⟩ | ⟨k, q, rfl⟩ := hi
  · obtain ⟨c, hc, hp⟩ := exists_chan_of_exec_txFrame_ok h hok
    rw [exec_txFrame_of_le hc hp] at h
    cases h
    exact ⟨⟨_, _, rfl⟩, fun x r => exec_txFrame_of_le hc hp _⟩
  · obtain hq | hq := Nat.lt_or_ge 9 q.length
    · rw [exec_cmdIssue_of_tooMany hq] at h
      cases h
      cases hok
    · rw [exec_cmdIssue_of_le hq] at h
      cases h
      exact ⟨⟨_, _, rfl⟩, fun x r => exec_cmdIssue_of_le hq k _⟩

/-- Settles O26: the first frame stands in `TXP` and the response only, and the second build reads neither. -/
theorem abandonedFrameLeavesNoTrace : Obligations.AbandonedFrameLeavesNoTrace := by
  intro a b s t u ha hb ht htok hu huok
  obtain ⟨⟨x, r, rfl⟩, -⟩ := exec_build_of_ok ha ht htok
  exact (exec_build_of_ok hb hu huok).2 x r

/-! ### SEND after SEND (R76, R105) -/

/-- The state a successful SEND on channel `c` leaves. -/
def afterSend (c : Channel) (s : State) : State := { bumpSeq c s with txp := {}, rsp := {} }

/-- The responses of SENDs with the payloads listed, the first carrying sequence `q`: for each the frame, and the commit's. -/
def sendResponses (c : Channel) : Byte → List Bytes → List Response
  | _, [] => []
  | q, p :: ps => { bytes := encodeFrame (chanByte c) q p } :: {} :: sendResponses c (q + 1#8) ps

theorem chanByte_toNat (c : Channel) : (chanByte c).toNat = c.val := by
  rw [chanByte, BitVec.toNat_ofNat, Nat.mod_eq_of_lt (by omega)]

theorem afterSend_seq_self (c : Channel) (s : State) : (afterSend c s).seq[c] = s.seq[c] + 1#8 := by
  simp [afterSend]

theorem afterSend_iterate_succ (c : Channel) (n : Nat) (s : State) : (afterSend c)^[n + 1] s =
    { s with seq := s.seq.set c (s.seq[c] + BitVec.ofNat 8 (n + 1)), txp := {}, rsp := {} } := by
  induction n with
  | zero => rfl
  | succ n ih =>
    rw [Function.iterate_succ_apply', ih]
    simp [afterSend, bumpSeq, writeSeq, readSeq, BitVec.ofNat_add, BitVec.add_assoc]

theorem runOps_send {c : Channel} {p : Bytes} (hp : p.length ≤ 0x7FFB) (rest : List Instr) (s : State) :
    runOps (sendOps (chanByte c) p true ++ rest) s = ({ bytes := encodeFrame (chanByte c) s.seq[c] p } :: {} ::
      (runOps rest (afterSend c s)).1, (runOps rest (afterSend c s)).2) := by
  rw [sendOps, List.cons_append, List.singleton_append, runOps_cons_of_next (exec_txFrame_of_le (chanByte_toNat c).symm hp s),
    runOps_cons_of_next (exec_txCommit_true rfl), applySend_of_plain rfl]
  rfl

theorem runOps_sends (c : Channel) {ps : List Bytes} (hps : ∀ p ∈ ps, p.length ≤ 0x7FFB) (s : State) :
    runOps (ps.flatMap fun p => sendOps (chanByte c) p true) s = (sendResponses c s.seq[c] ps, (afterSend c)^[ps.length] s) := by
  induction ps generalizing s with
  | nil => rfl
  | cons p ps ih =>
    obtain ⟨hp, hrest⟩ := List.forall_mem_cons.1 hps
    rw [List.flatMap_cons, runOps_send hp, ih hrest, afterSend_seq_self]
    rfl

theorem sendResponses_length (c : Channel) (q : Byte) (ps : List Bytes) : (sendResponses c q ps).length = 2 * ps.length := by
  induction ps generalizing q with
  | nil => rfl
  | cons p ps ih => simp only [sendResponses, List.length_cons, ih, Nat.mul_add]

theorem sendResponses_ok (c : Channel) (q : Byte) (ps : List Bytes) : ∀ r ∈ sendResponses c q ps, r.status = .ok := by
  induction ps generalizing q with
  | nil => nofun
  | cons p ps ih => exact List.forall_mem_cons.2 ⟨rfl, List.forall_mem_cons.2 ⟨rfl, ih _⟩⟩

/-- The frame of the send numbered `n` carries the sequence `n` past that of the first. -/
theorem sendResponses_frame_seq (c : Channel) {ps : List Bytes} (hps : ∀ p ∈ ps, p.length ≤ 0x7FFB) (q : Byte) {n : Nat}
    (hn : n < ps.length) : (sendResponses c q ps)[2 * n]?.bind (fun r => r.bytes[3]?) = some (q + BitVec.ofNat 8 n) := by
  induction ps generalizing q n with
  | nil => cases hn
  | cons p ps ih =>
    obtain ⟨hp, hrest⟩ := List.forall_mem_cons.1 hps
    cases n with
    | zero =>
      rw [sendResponses, encodeFrame_eq _ _ hp]
      simp
    | succ n =>
      have hrec := ih hrest (q + 1#8) (Nat.lt_of_succ_lt_succ hn)
      rw [BitVec.add_assoc, ← BitVec.ofNat_add, Nat.add_comm 1] at hrec
      exact hrec

/-- Settles O28: 256 increments of a byte are none, and send `n` carries the counter after `n` of them. -/
theorem counterWrapsAfter256Sends : Obligations.CounterWrapsAfter256Sends := by
  intro c ps s hlen hps run
  have hrun : run = (sendResponses c s.seq[c] ps, (afterSend c)^[ps.length] s) := runOps_sends c hps s
  rw [hrun]
  refine ⟨?_, by rw [sendResponses_length, hlen], sendResponses_ok c _ ps, fun n hn =>
    sendResponses_frame_seq c hps _ (hlen ▸ hn)⟩
  rw [hlen, afterSend_iterate_succ]
  simp

end Sys2Proof.Machine
end

section
/-! SUPPORT. Proofs of the batch splitter family (42_batch_splitter.md): what LEN_LOOKUP answers by the rows of the length
tables, how SPLIT ends by what its loop answers, and where the first bad report stops it. -/

namespace Sys2Proof.Machine

/-! ### LEN_LOOKUP (R66, R120) -/

/-- A row of either table is what the lookup of its id finds: the ranges of the two tables are apart (R66). -/
theorem lookupLen_of_mem {c : Config} (hc : Legal c) {row : LenRow} (hrow : row ∈ c.sensorLen ∨ row ∈ c.controlLen) :
    lookupLen c row.id = some row.len := by
  obtain ⟨hsensor, hcontrol, -⟩ := hc
  rcases hrow with hrow | hrow
  · have hlow : row.id.toNat ≤ 0xEF := (hsensor.2 row hrow).2.1
    rw [lookupLen, if_pos (by omega), rowLen_of_mem hsensor hrow]
  · have hhigh : 0xF0 ≤ row.id.toNat := (hcontrol.2 row hrow).1
    rw [lookupLen, if_neg (by omega), rowLen_of_mem hcontrol hrow]

/-- What the lookup finds is a row of one of the tables. -/
theorem lookupLen_mem {c : Config} {id : Byte} {n : Nat} (h : lookupLen c id = some n) :
    ∃ row, (row ∈ c.sensorLen ∨ row ∈ c.controlLen) ∧ row.id = id := by
  unfold lookupLen at h
  split at h
  · obtain ⟨row, hrow, hid, -⟩ := rowLen_mem h
    exact ⟨row, .inl hrow, hid⟩
  · obtain ⟨row, hrow, hid, -⟩ := rowLen_mem h
    exact ⟨row, .inr hrow, hid⟩

theorem exec_lenLookup_of_some {id : Byte} {n : Nat} {s : State} (h : lookupLen s.cfg id = some n) :
    exec (.lenLookup id) s = .next { s with rsp := { hit := true, len := BitVec.ofNat 8 n } } := by
  simp only [exec, execLenLookup, h]
  rfl

theorem exec_lenLookup_of_none {id : Byte} {s : State} (h : lookupLen s.cfg id = none) :
    exec (.lenLookup id) s = .next { s with rsp := { hit := false, len := 0#8 } } := by
  simp only [exec, execLenLookup, h]
  rfl

/-- Settles O29: under a legal configuration the rows of the tables are exactly what the lookup finds. -/
theorem lenLookupResult : Obligations.LenLookupResult := by
  intro id s hc
  constructor
  · rintro row hrow rfl
    exact exec_lenLookup_of_some (lookupLen_of_mem hc hrow)
  · intro hmiss
    refine exec_lenLookup_of_none (Option.eq_none_iff_forall_ne_some.2 fun n hn => ?_)
    obtain ⟨row, hrow, hid⟩ := lookupLen_mem hn
    exact hmiss row hrow hid

/-! ### POP_SLICE (R128) -/

/-- Settles O34, a clause for the stack with a last entry and for the empty one. -/
theorem popSliceResult : Obligations.PopSliceResult :=
  fun _ => ⟨fun _ _ => exec_popSlice_of_concat, exec_popSlice_of_nil⟩

/-! ### SPLIT that answers OK (R124, R130, R131, R133) -/

/-- Settles O30: with room for them the loop passes over the whole reports to the packet's end. -/
theorem splitPushesWholeReports : Obligations.SplitPushesWholeReports :=
  fun _ _ => exec_split_of_joined

/-- What a SPLIT that answered OK has done: it cut the packet into whole reports (R130) and pushed them, all else but the
response staying. -/
theorem exec_split_ok {s t : State} (hc : Legal s.cfg) (h : exec .split s = .next t) (hok : t.rsp.status = .ok) :
    ∃ l, joined l = s.pkt ∧ (∀ e ∈ l, GoodSlice s.cfg e) ∧
      t = { s with stk := s.stk ++ l, rsp := { count := BitVec.ofNat 16 l.length } } := by
  change execSplit s = .next t at h
  unfold execSplit at h
  split at h
  next l hl =>
    obtain ⟨hjoined, hgood⟩ := splitLoop_slices hc hl
    exact ⟨l, hjoined, hgood, returnWith_ok.1 h⟩
  next st info hfailed =>
    have hst : st = .ok := by rw [← hok, raiseWith_eq_next.1 h, recordError_rsp]
    rcases splitLoop_failed hfailed with rfl | rfl | rfl <;> cases hst
  next => cases h

/-- Settles O32: the slices pushed are the ones the loop cut the packet into. -/
theorem slicesPartitionTheBatch : Obligations.SlicesPartitionTheBatch := by
  intro s t hc h hok
  obtain ⟨l, hjoined, hgood, rfl⟩ := exec_split_ok hc h hok
  exact ⟨l, rfl, hjoined, hgood, rfl⟩

/-- Settles O33: a drain reverses the stack, on which the batch lies above the older slices. -/
theorem dispatchOrderIsReversedWireOrder : Obligations.DispatchOrderIsReversedWireOrder := by
  intro s t hc h hok
  obtain ⟨l, hjoined, hgood, rfl⟩ := exec_split_ok hc h hok
  rw [drain_eq, List.reverse_append]
  exact ⟨l, hjoined, hgood, rfl, rfl⟩

/-- Settles O36: the packet after a SPLIT is the one before it, so the second SPLIT meets the same whole reports. -/
theorem secondSplitPushesTheSameSlices : Obligations.SecondSplitPushesTheSameSlices := by
  intro s t hc h hok hroom
  obtain ⟨l, hjoined, hgood, rfl⟩ := exec_split_ok hc h hok
  rw [List.length_append, Nat.add_sub_cancel_left] at hroom
  exact ⟨l, _, rfl, exec_split_of_joined hgood hjoined.symm hroom, rfl⟩

/-! ### SPLIT that aborts (R124, R134) -/

/-- The offset and the id that `info` names lie in fields of their own (R171). -/
theorem offset_or_id_toNat {off : Nat} (hoff : off < 2 ^ 16) (id : Byte) :
    (BitVec.ofNat 32 off ||| id.setWidth 32 <<< 16).toNat = off + 65536 * id.toNat := by
  have hid := id.isLt
  rw [or_shiftLeft_toNat] <;> simp only [BitVec.toNat_ofNat, BitVec.toNat_setWidth] <;> omega

/-- The length of the table entry lies above them (R171). -/
theorem offset_or_id_or_len_toNat {off n : Nat} (hoff : off < 2 ^ 16) (id : Byte) (hn : n ≤ 255) :
    (BitVec.ofNat 32 off ||| id.setWidth 32 <<< 16 ||| BitVec.ofNat 32 n <<< 24).toNat =
      off + 65536 * id.toNat + 16777216 * n := by
  have hid := id.isLt
  rw [or_shiftLeft_toNat] <;> simp only [offset_or_id_toNat hoff, BitVec.toNat_ofNat] <;> omega

section
variable {c : Config} {off d n : Nat} {id : Byte} {tail : Bytes}

/-- The first test of the loop: the id has no entry (D17). -/
theorem splitLoop_of_unknown (hn : lookupLen c id = none) (hoff : off < 2 ^ 16) (fuel : Nat) :
    splitLoop c (fuel + 1) off d (id :: tail) = .failed .unknownReport (BitVec.ofNat 32 (off + 65536 * id.toNat)) := by
  rw [splitLoop, hn, ← eq_ofNat_of_toNat_eq (offset_or_id_toNat hoff id)]

/-- The second test: the entry is longer than what remains. -/
theorem splitLoop_of_short (hn : lookupLen c id = some n) (hshort : tail.length + 1 < n) (hoff : off < 2 ^ 16) (h255 : n ≤ 255)
    (fuel : Nat) : splitLoop c (fuel + 1) off d (id :: tail) =
      .failed .batchFraming (BitVec.ofNat 32 (off + 65536 * id.toNat + 16777216 * n)) := by
  rw [splitLoop, hn, ← eq_ofNat_of_toNat_eq (offset_or_id_or_len_toNat hoff id h255)]
  exact if_pos hshort

/-- The third test: a whole report meets a full stack (D18). -/
theorem splitLoop_of_full (hn : lookupLen c id = some n) (hwhole : n ≤ tail.length + 1) (hfull : c.stackDepth = some d)
    (fuel : Nat) : splitLoop c (fuel + 1) off d (id :: tail) = .failed .stackOverflow (BitVec.ofNat 32 off) := by
  rw [splitLoop, hn]
  exact (if_neg hwhole.not_gt).trans (if_pos hfull)

end

/-- A failure of the loop behind whole reports that fit is how the SPLIT ends: those reports do not reach the stack. -/
theorem exec_split_of_failed_behind {s : State} {l : List Slice} {id : Byte} {tail : Bytes}
    (hgood : ∀ e ∈ l, GoodSlice s.cfg e) (hpkt : s.pkt = joined l ++ id :: tail) (hroom : HasRoom s l.length)
    {st : Status} {info : Word}
    (hfail : ∀ fuel, splitLoop s.cfg (fuel + 1) (joined l).length (s.stk.length + l.length) (id :: tail) = .failed st info) :
    exec .split s = raiseWith st info s := by
  have hlt : l.length < s.pkt.length := by
    have hle := length_le_joined hgood
    rw [hpkt, List.length_append, List.length_cons]
    omega
  obtain ⟨fuel, hfuel⟩ : ∃ fuel, s.pkt.length - l.length = fuel + 1 := Nat.exists_eq_add_one.2 (Nat.sub_pos_of_lt hlt)
  have hloop : splitLoop s.cfg s.pkt.length 0 s.stk.length s.pkt = .failed st info := by
    have happend := splitLoop_append hgood (off := 0) (rest := id :: tail) hlt.le hroom
    rw [← hpkt, hfuel, Nat.zero_add, hfail, foldr_push_failed] at happend
    exact happend
  simp only [exec, execSplit, hloop]

/-- Settles O31: the loop passes over the whole reports and stops at the bad one, at one of its three tests. -/
theorem splitAbortsWholly : Obligations.SplitAbortsWholly := by
  intro s l id tail hgood hpkt hcap hroom
  have hoff : (joined l).length < 2 ^ 16 := by
    rw [hpkt, List.length_append] at hcap
    omega
  refine ⟨fun hmiss => ?_, fun n hn hshort h255 => ?_, fun n hn hwhole hfull => ?_⟩
  · rw [exec_split_of_failed_behind hgood hpkt hroom (splitLoop_of_unknown hmiss hoff)]
    exact raiseWith_eq_abortedWith (by decide) rfl _ s
  · rw [exec_split_of_failed_behind hgood hpkt hroom (splitLoop_of_short hn hshort hoff h255)]
    exact raiseWith_eq_abortedWith (by decide) rfl _ s
  · rw [exec_split_of_failed_behind hgood hpkt hroom (splitLoop_of_full hn hwhole hfull)]
    exact raiseWith_eq_abortedWith (by decide) rfl _ s

end Sys2Proof.Machine
end

section
/-! SUPPORT. Proofs of the command correlator family (43_command_correlator.md): the bytes of a command frame, what a
commit does to the two kinds of counter, what an accepted response writes, and how the calibration latches move. -/

namespace Sys2Proof.Machine

/-! ### CMD_ISSUE (R64, R140) -/

/-- The sixteen bytes of a command frame: the header, then the payload of R64. -/
theorem encodeFrame_commandPayload {q : Bytes} (hq : q.length ≤ 9) (c n m k : Byte) :
    encodeFrame c n (commandPayload m k q) =
      [0x10#8, 0x00#8, c, n, 0xF2#8, m, k] ++ q ++ List.replicate (9 - q.length) 0x00#8 := by
  have hlen : (commandPayload m k q).length = 12 := by
    simp only [commandPayload, zeros, cmdMaxParams_eq, List.length_append, List.length_cons, List.length_nil, List.length_replicate]
    omega
  rw [encodeFrame_eq _ _ (by omega), hlen]
  rfl

/-- Settles O37: a command with room for its parameters is framed byte by byte, one without is refused. -/
theorem cmdIssueResult : Obligations.CmdIssueResult := by
  refine fun k q s => ⟨fun hq => ?_, fun hq => ⟨infoOfLen q.length, infoOfLen_toNat, exec_cmdIssue_of_tooMany hq k s⟩⟩
  rw [exec_cmdIssue_of_le hq, encodeFrame_commandPayload hq]

/-! ### The two counters of a commit (R104, R142) -/

/-- What a commit leaves in each counter, none of it read from the other. -/
theorem exec_txCommit_counters (ok : Bool) (s : State) : ∃ t, exec (.txCommit ok) s = .next t ∧
    t.seq = (if ok = true ∧ s.txp.valid = true then s.seq.set s.txp.ch (s.seq[s.txp.ch] + 1#8) else s.seq) ∧
    t.cmdSeq = if ok = true ∧ s.txp.valid = true ∧ s.txp.cmd = true
      then s.cmdSeq.set 0xF2 (s.cmdSeq[0xF2] + 1#8) else s.cmdSeq := by
  cases hv : s.txp.valid with
  | false => exact ⟨_, exec_txCommit_of_idle hv ok, by simp [abortedWith]⟩
  | true =>
    cases ok with
    | true => exact ⟨_, exec_txCommit_true hv, by simp⟩
    | false => exact ⟨_, exec_txCommit_false hv, by simp⟩

/-- Settles O38: the frame shows both counters, and each counter's value after a commit is `exec_txCommit_counters`. -/
theorem commandCarriesTwoIndependentSequences : Obligations.CommandCarriesTwoIndependentSequences := by
  refine ⟨fun k q s t h hok => ?_, fun s t ok seq' cmdSeq' h => ?_⟩
  · obtain hq | hq := Nat.lt_or_ge 9 q.length
    · rw [exec_cmdIssue_of_tooMany hq] at h
      cases h
      cases hok
    · rw [exec_cmdIssue_of_le hq, encodeFrame_commandPayload hq] at h
      cases h
      refine ⟨?_, rfl, rfl⟩
      simp only [List.length_append, List.length_cons, List.length_nil, List.length_replicate]
      omega
  · obtain ⟨t', ht, hseq, hcmd⟩ := exec_txCommit_counters ok s
    cases ht.symm.trans h
    obtain ⟨u, hu, huseq, -⟩ := exec_txCommit_counters ok { s with cmdSeq := cmdSeq' }
    obtain ⟨w, hw, -, hwcmd⟩ := exec_txCommit_counters ok { s with seq := seq' }
    exact ⟨⟨u, hu, huseq.trans hseq.symm⟩, w, hw, hwcmd.trans hcmd.symm⟩

/-- Settles O39: a commit moves CMDSEQ as `exec_txCommit_counters` says, and no other operation but RESET writes it. -/
theorem commandSequenceHasOneWriter : Obligations.CommandSequenceHasOneWriter := by
  intro i s t h hr
  by_cases hi : i = .txCommit true
  · subst hi
    obtain ⟨t', ht, -, hcmd⟩ := exec_txCommit_counters true s
    cases ht.symm.trans h
    simpa using hcmd
  · obtain ⟨u, hw, r, seen, last, rfl, -⟩ := exec_next_writes h
    rw [if_neg fun hc => hi hc.1]
    exact hw.cmdSeq hr hi

/-! ### CMD_RESPONSE (R146, R147, R148) -/

theorem getElem?_eq_some_byteAt {b : Bytes} {i : Nat} (h : i < b.length) : b[i]? = some (byteAt b i) := by
  rw [byteAt, List.getD_eq_getElem _ _ h, List.getElem?_eq_getElem h]

theorem latchMe_eq (cmd st : Byte) (now : Word) (s : State) : latchMe cmd st now s = { s with
    meValid := s.meValid || (decide (cmd = s.cfg.cmdMeCalibrate) && decide (st = 0#8))
    meTs := if cmd = s.cfg.cmdMeCalibrate ∧ st = 0#8 ∧ s.meValid = false then now else s.meTs } := by
  rw [← latchMe_meValid cmd st now, ← latchMe_meTs]
  unfold latchMe
  split <;> rfl

theorem latchDcd_eq (cmd st : Byte) (now : Word) (s : State) : latchDcd cmd st now s = { s with
    dcdValid := s.dcdValid || (decide (cmd = s.cfg.cmdSaveDcd) && decide (st = 0#8))
    dcdTs := if cmd = s.cfg.cmdSaveDcd ∧ st = 0#8 ∧ s.dcdValid = false then now else s.dcdTs } := by
  rw [← latchDcd_dcdValid cmd st now, ← latchDcd_dcdTs]
  unfold latchDcd
  split <;> rfl

/-- The registers as an accepted response `b` leaves them (R146). -/
def acceptResponse (b : Bytes) (now : Word) (s : State) : State :=
  latchDcd (byteAt b 2) (byteAt b 5) now (latchMe (byteAt b 2) (byteAt b 5) now { s with rspLatch := latchResponse b })

theorem acceptResponse_eq (b : Bytes) (now : Word) (s : State) : acceptResponse b now s = { s with
    rspLatch := latchResponse b
    meValid := s.meValid || (decide (byteAt b 2 = s.cfg.cmdMeCalibrate) && decide (byteAt b 5 = 0#8))
    meTs := if byteAt b 2 = s.cfg.cmdMeCalibrate ∧ byteAt b 5 = 0#8 ∧ s.meValid = false then now else s.meTs
    dcdValid := s.dcdValid || (decide (byteAt b 2 = s.cfg.cmdSaveDcd) && decide (byteAt b 5 = 0#8))
    dcdTs := if byteAt b 2 = s.cfg.cmdSaveDcd ∧ byteAt b 5 = 0#8 ∧ s.dcdValid = false then now else s.dcdTs } := by
  rw [acceptResponse, latchDcd_eq, latchMe_eq]

section
variable {b : Bytes} {s : State} (now : Word)

theorem exec_cmdResponse_of_length_ne (hlen : b.length ≠ 16) :
    exec (.cmdResponse b now) s = .next (abortedWith .badResponse 0x0B (infoOfLen b.length) s) := by
  rw [exec, execCmdResponse, if_pos hlen]
  rfl

theorem exec_cmdResponse_of_otherId (hlen : b.length = 16) (hid : byteAt b 0 ≠ s.cfg.idCmdResp) :
    exec (.cmdResponse b now) s =
      .next (abortedWith .badResponse 0x0B (BitVec.ofNat 32 (16 + 65536 * (byteAt b 0).toNat)) s) := by
  have hinfo : BitVec.ofNat 32 16 ||| ((byteAt b 0).setWidth 32 <<< 16) =
      BitVec.ofNat 32 (16 + 65536 * (byteAt b 0).toNat) :=
    eq_ofNat_of_toNat_eq (offset_or_id_toNat (by decide) _)
  rw [exec, execCmdResponse, if_neg (not_not.2 hlen), if_pos hid, hlen, hinfo]
  rfl

theorem exec_cmdResponse_ok (hlen : b.length = 16) (hid : byteAt b 0 = s.cfg.idCmdResp)
    (hok : ¬(byteAt b 2 = s.cfg.cmdSaveDcd ∧ byteAt b 5 ≠ 0#8)) :
    exec (.cmdResponse b now) s = .next { acceptResponse b now s with rsp := { value := (byteAt b 5).setWidth 32 } } := by
  simp only [exec, execCmdResponse, if_neg (not_not.2 hlen), if_neg (not_not.2 hid), if_neg hok]
  rfl

theorem exec_cmdResponse_saveFailed (hlen : b.length = 16) (hid : byteAt b 0 = s.cfg.idCmdResp)
    (hcmd : byteAt b 2 = s.cfg.cmdSaveDcd) (hst : byteAt b 5 ≠ 0#8) :
    exec (.cmdResponse b now) s = .next { acceptResponse b now s with
      errSeen := (acceptResponse b now s).errSeen ||| 0x0020#16
      lastErr := 0x05#8
      rsp := { status := .calSaveFailed, value := (byteAt b 5).setWidth 32, info := (byteAt b 5).setWidth 32 } } := by
  simp only [exec, execCmdResponse, if_neg (not_not.2 hlen), if_neg (not_not.2 hid), if_pos (And.intro hcmd hst)]
  rfl

end

/-- Settles O40: the status and the error record by whether the response is a failed save, all else by `acceptResponse_eq`. -/
theorem cmdResponseResult : Obligations.CmdResponseResult := by
  intro s now b1 k b3 b4 st r1 r2 r3 r4 r5 r6 r7 r8 r9 r10 failed _ hfailed
  by_cases hsave : k = s.cfg.cmdSaveDcd ∧ st ≠ 0#8
  · obtain rfl : failed = true := by simpa [hfailed] using hsave
    obtain ⟨hcmd, hst⟩ := hsave
    refine Eq.trans (exec_cmdResponse_saveFailed now rfl rfl hcmd hst) ?_
    rw [acceptResponse_eq, BitVec.ofNat_toNat]
    rfl
  · obtain rfl : failed = false := by simpa [hfailed] using hsave
    refine Eq.trans (exec_cmdResponse_ok now rfl rfl hsave) ?_
    rw [acceptResponse_eq, BitVec.ofNat_toNat]
    rfl

/-- Settles O41, a clause for each refusal of CMD_RESPONSE. -/
theorem cmdResponseRefusesOtherSlices : Obligations.CmdResponseRefusesOtherSlices := by
  refine fun b now s => ⟨fun hlen => ⟨infoOfLen b.length, infoOfLen_toNat, exec_cmdResponse_of_length_ne now hlen⟩,
    fun b0 hlen hhead hid => ?_⟩
  rw [List.head?_eq_getElem?, getElem?_eq_some_byteAt (by omega)] at hhead
  cases hhead
  exact exec_cmdResponse_of_otherId now hlen hid

/-- Settles O42: a response of the ME command is no DCD save, so it is OK, and `acceptResponse_eq` gives the latch. -/
theorem meLatchIsSetOnce : Obligations.MeLatchIsSetOnce := by
  intro b now s hne hlen hid hcmd
  simp only [getElem?_eq_some_byteAt, hlen, Nat.reduceLT, Option.some.injEq] at hid hcmd ⊢
  refine ⟨_, exec_cmdResponse_ok now hlen hid (fun hsave => hne (hcmd.symm.trans hsave.1)), rfl, ?_⟩
  rw [acceptResponse_eq]
  simp +contextual [hcmd]

/-- Settles O43: the status byte decides between OK and CAL_SAVE_FAILED, and `acceptResponse_eq` gives the latch. -/
theorem dcdLatchIsSetOnce : Obligations.DcdLatchIsSetOnce := by
  intro b now s hlen hid hcmd
  simp only [getElem?_eq_some_byteAt, hlen, Nat.reduceLT, Option.some.injEq] at hid hcmd ⊢
  by_cases hst : byteAt b 5 = 0#8
  · refine ⟨_, exec_cmdResponse_ok now hlen hid (fun hsave => hsave.2 hst), ?_⟩
    rw [acceptResponse_eq]
    simp +contextual [hcmd, hst]
  · refine ⟨_, exec_cmdResponse_saveFailed now hlen hid hcmd hst, ?_⟩
    rw [acceptResponse_eq]
    simp [hst]

/-- Settles O44: in each branch of CMD_RESPONSE the next state reads of the report its length, id, command and status
only, but for the latched copy. -/
theorem responsesAreMatchedByCommandOnly : Obligations.ResponsesAreMatchedByCommandOnly := by
  intro b b' now s t seq' cmdSeq' txp' latch' hlen hlen' h0 h2 h5 h
  simp only [getElem?_eq_some_byteAt, hlen, hlen', Nat.reduceLT, Option.some.injEq] at h0 h2 h5
  by_cases hid : byteAt b 0 = s.cfg.idCmdResp
  · by_cases hsave : byteAt b 2 = s.cfg.cmdSaveDcd ∧ byteAt b 5 ≠ 0#8
    · obtain ⟨hcmd, hst⟩ := hsave
      rw [exec_cmdResponse_saveFailed now hlen hid hcmd hst, acceptResponse_eq] at h
      cases h
      refine ⟨_, exec_cmdResponse_saveFailed now hlen' (h0 ▸ hid) (h2 ▸ hcmd) (h5 ▸ hst), ?_⟩
      rw [acceptResponse_eq, h2, h5]
    · rw [exec_cmdResponse_ok now hlen hid hsave, acceptResponse_eq] at h
      cases h
      refine ⟨_, exec_cmdResponse_ok now hlen' (h0 ▸ hid) (h2 ▸ h5 ▸ hsave), ?_⟩
      rw [acceptResponse_eq, h2, h5]
  · rw [exec_cmdResponse_of_otherId now hlen hid] at h
    cases h
    refine ⟨_, exec_cmdResponse_of_otherId now hlen' (h0 ▸ hid), ?_⟩
    rw [h0]
    rfl

/-! ### The calibration cycle (R144, R147, R148, R199) -/

/-- The ways operation `i`, taken in state `s`, can leave the calibration latch of command `code`, which held `valid` and
`ts`: as it was, cleared by committing its command, or set by a response. -/
inductive LatchMoves (s : State) (i : Instr) (code : Byte) (valid : Bool) (ts : Word) : Bool → Word → Prop where
  | kept : LatchMoves s i code valid ts valid ts
  | cleared (hi : i = .txCommit true ∧ s.txp.valid = true ∧ s.txp.cmd = true ∧ s.txp.code = code) :
      LatchMoves s i code valid ts false ts
  | set {b : Bytes} {now : Word} (hi : i = .cmdResponse b now) (hv : valid = false) : LatchMoves s i code valid ts true now

section
variable {s : State} {code : Byte} {valid : Bool} {ts : Word}

theorem LatchMoves.of_send (hv : s.txp.valid = true) : LatchMoves s (.txCommit true) code valid ts
    (if s.txp.cmd = true ∧ s.txp.code = code then false else valid) ts := by
  split
  next hcmd => exact .cleared ⟨rfl, hv, hcmd⟩
  · exact .kept

theorem LatchMoves.of_response (b : Bytes) (now : Word) (cmd st : Byte) : LatchMoves s (.cmdResponse b now) code valid ts
    (valid || (decide (cmd = code) && decide (st = 0#8))) (if cmd = code ∧ st = 0#8 ∧ valid = false then now else ts) := by
  cases valid with
  | true =>
    rw [if_neg (by simp)]
    exact .kept
  | false =>
    by_cases hset : cmd = code ∧ st = 0#8
    · simpa [hset] using LatchMoves.set rfl rfl
    · have hvalid : (decide (cmd = code) && decide (st = 0#8)) = false := by simpa using hset
      rw [hvalid, if_neg fun h => hset ⟨h.1, h.2.1⟩]
      exact .kept

/-- A latch that was set stays set with its time, or its command was committed; one that became set took the response's
time. -/
theorem LatchMoves.rearm {i : Instr} {valid' : Bool} {ts' : Word} (h : LatchMoves s i code valid ts valid' ts') :
    (valid = true → (valid' = true ∨ i = .txCommit true ∧ s.txp.valid = true ∧ s.txp.cmd = true ∧ s.txp.code = code) ∧
      ts' = ts) ∧
    (valid = false → valid' = true → ∃ b now, i = .cmdResponse b now ∧ ts' = now) := by
  cases h with
  | kept => exact ⟨fun hv => ⟨.inl hv, rfl⟩, fun hf hv => absurd (hf.symm.trans hv) (by decide)⟩
  | cleared hi => exact ⟨fun _ => ⟨.inr hi, rfl⟩, nofun⟩
  | set hi hv => exact ⟨fun ht => absurd (hv.symm.trans ht) (by decide), fun _ _ => ⟨_, _, hi, rfl⟩⟩

end

/-- Both latches move only so, whatever the operation commits. -/
theorem Writes.latches {s u : State} {i : Instr} (h : Writes s i u) (hr : i ≠ .reset) :
    LatchMoves s i s.cfg.cmdMeCalibrate s.meValid s.meTs u.meValid u.meTs ∧
    LatchMoves s i s.cfg.cmdSaveDcd s.dcdValid s.dcdTs u.dcdValid u.dcdTs := by
  cases h with
  | reset => exact absurd rfl hr
  | txSent hv =>
    simp only [applySend_meValid, applySend_meTs, applySend_dcdValid, applySend_dcdTs]
    exact ⟨.of_send hv, .of_send hv⟩
  | @cmdResponse b now =>
    rw [← acceptResponse, acceptResponse_eq]
    exact ⟨.of_response .., .of_response ..⟩
  | _ => simpa using ⟨LatchMoves.kept, LatchMoves.kept⟩

/-- Settles O45, for each latch by `LatchMoves.rearm`. -/
theorem latchesAreRearmedOnlyByTheirCommand : Obligations.LatchesAreRearmedOnlyByTheirCommand := by
  intro i s t h hr
  obtain ⟨u, hw, r, seen, last, rfl, -⟩ := exec_next_writes h
  obtain ⟨hme, hdcd⟩ := hw.latches hr
  obtain ⟨hmeKept, hmeSet⟩ := hme.rearm
  obtain ⟨hdcdKept, hdcdSet⟩ := hdcd.rearm
  exact ⟨hmeKept, hdcdKept, hmeSet, hdcdSet⟩

end Sys2Proof.Machine
end

section
/-! SUPPORT. Proofs of the exceptions family (60_exceptions.md): the block goes on after any status, an idle step keeps all
state, and the error record is sticky and decides nothing. -/

namespace Sys2Proof.Machine

/-! ### The block goes on (R173, R181) -/

theorem step_of_requests_nil {s : State} (hc : Legal s.cfg) (hr : s.requests = []) : step s = .next s := by
  rw [step, if_pos hc, hr]

/-- Settles O7: it is what `step` says of an empty queue. -/
theorem idleStepKeepsAllState : Obligations.IdleStepKeepsAllState :=
  fun _ => step_of_requests_nil

theorem exec_requests {i : Instr} {s t : State} (h : exec i s = .next t) : t.requests = s.requests := by
  obtain ⟨u, hw, r, seen, last, rfl, -⟩ := exec_next_writes h
  exact hw.requests

/-- A step under a legal configuration takes the next request, if there is one, and keeps the configuration. -/
theorem step_next_of_legal {s : State} (hc : Legal s.cfg) :
    ∃ t, step s = .next t ∧ t.cfg = s.cfg ∧ t.requests = s.requests.tail := by
  cases hr : s.requests with
  | nil => exact ⟨s, step_of_requests_nil hc hr, rfl, hr⟩
  | cons r rest =>
    obtain ⟨t, ht⟩ := everyOperationResponds (decode r) { s with requests := rest } hc
    exact ⟨t, (step_of_requests_cons hc hr).trans ht, (exec_cfg ht :), (exec_requests ht :)⟩

theorem run_succ_of_step {s t : State} (h : step s = .next t) (n : Nat) :
    Host.Core.run core (n + 1) s = Host.Core.run core n t := by
  have hstep : core.step s = .next t := h
  simp only [Host.Core.run, hstep]

/-- Settles O9, by induction on the number of steps: each answers a next state with a legal configuration. -/
theorem blockGoesOnAfterAnyStatus : Obligations.BlockGoesOnAfterAnyStatus := by
  intro n
  induction n with
  | zero => exact fun s _ => ⟨s, rfl, rfl⟩
  | succ n ih =>
    intro s hc
    obtain ⟨u, hstep, hcfg, hreq⟩ := step_next_of_legal hc
    obtain ⟨t, hrun, hdrop⟩ := ih u (hcfg ▸ hc)
    refine ⟨t, (run_succ_of_step hstep n).trans hrun, ?_⟩
    rw [hdrop, hreq, List.drop_tail]

/-! ### The error record is sticky (R172) -/

theorem statusCode_ne_zero {st : Status} (h : st ≠ .ok) : statusCode st ≠ 0#8 := by
  cases st with
  | ok => exact absurd rfl h
  | _ => decide

/-- Settles O52: the record that stays is a clause of O55. The writes a stateful operation stages leave the record too, so
after a failure it is what `recordError` made of the record before. -/
theorem errorRecordIsSticky : Obligations.ErrorRecordIsSticky := by
  intro i s t h hr
  obtain ⟨-, -, -, -, -, -, -, hkept, -⟩ := eachRegisterHasItsWriters i s t h hr
  refine ⟨hkept, fun hstateful hne => ?_⟩
  obtain ⟨hpure, -⟩ | ⟨-, u, r, hw, -, rfl⟩ := exec_eq_next h
  · exact absurd (hpure.symm.trans hstateful) (by decide)
  · obtain ⟨hseen, -⟩ := hw.errorRecord hr
    rw [recordError_rsp] at hne ⊢
    rw [recordError_of_ne hne]
    refine ⟨rfl, statusCode_ne_zero hne, fun n => ?_⟩
    rw [BitVec.getLsbD_or, errBit_getLsbD, hseen]

/-! ### The error record decides nothing (R172) -/

/-- The two states differ at most in the error record. -/
def SameButErrors (s u : State) : Prop := u = { s with errSeen := u.errSeen, lastErr := u.lastErr }

/-- The two outcomes are next states that differ at most in the error record, or one and the same stop. -/
inductive Alike : Result → Result → Prop where
  | next {t u : State} (h : SameButErrors t u) : Alike (.next t) (.next u)
  | fault (f : Fault) : Alike (.fault f) (.fault f)

section
variable {s u : State} {st : Status} {r : Response} {info : Word}

theorem Alike.pureReturned (h : SameButErrors s u) : Alike (pureReturn r s) (pureReturn r u) := by
  rw [h]
  exact .next rfl

theorem Alike.pureRaised (h : SameButErrors s u) : Alike (pureRaise st info s) (pureRaise st info u) := by
  rw [h]
  exact .next rfl

/-- What an ending adds to the record is in the record again. -/
theorem Alike.returned (h : SameButErrors s u) : Alike (returnWith st r s) (returnWith st r u) := by
  rw [h]
  by_cases hst : st = .ok
  · rw [hst]
    exact .next rfl
  · rw [returnWith, returnWith, recordError_of_ne hst, recordError_of_ne hst]
    exact .next rfl

theorem Alike.raised (h : SameButErrors s u) : Alike (raiseWith st info s) (raiseWith st info u) :=
  .returned (r := { info := info }) h

theorem SameButErrors.mirrorSeq {ch v : Byte} (h : SameButErrors s u) :
    SameButErrors (mirrorSeq ch v s) (mirrorSeq ch v u) := by
  rw [h]
  unfold Machine.mirrorSeq
  split <;> rfl

theorem SameButErrors.applySend (h : SameButErrors s u) : SameButErrors (applySend s) (applySend u) := by
  rw [h]
  unfold Machine.applySend
  dsimp only
  split <;> rfl

theorem SameButErrors.acceptResponse {b : Bytes} {now : Word} (h : SameButErrors s u) :
    SameButErrors (acceptResponse b now s) (acceptResponse b now u) := by
  rw [h, acceptResponse_eq, acceptResponse_eq]
  rfl

end

section
variable (s : State) (seen : Half) (last : Byte)

theorem execHdrDecode_alike (b : Bytes) :
    Alike (execHdrDecode b s) (execHdrDecode b { s with errSeen := seen, lastErr := last }) := by
  unfold execHdrDecode
  split
  · exact .pureReturned rfl
  · exact .pureRaised rfl

theorem execHdrEncode_alike (ch q : Byte) (b : Bytes) :
    Alike (execHdrEncode ch q b s) (execHdrEncode ch q b { s with errSeen := seen, lastErr := last }) := by
  unfold execHdrEncode
  split_ifs
  · exact .pureRaised rfl
  · exact .pureRaised rfl
  · exact .pureReturned rfl

theorem execTxFrame_alike (ch : Byte) (b : Bytes) :
    Alike (execTxFrame ch b s) (execTxFrame ch b { s with errSeen := seen, lastErr := last }) := by
  unfold execTxFrame
  split
  · exact .raised rfl
  · split_ifs
    · exact .raised rfl
    · exact .returned rfl

theorem execTxCommit_alike (ok : Bool) :
    Alike (execTxCommit ok s) (execTxCommit ok { s with errSeen := seen, lastErr := last }) := by
  have hsent : SameButErrors (applySend s) (applySend { s with errSeen := seen, lastErr := last }) := .applySend rfl
  unfold execTxCommit
  dsimp only
  split_ifs
  · rw [hsent]
    exact .returned rfl
  · exact .returned rfl
  · exact .raised rfl

theorem execRxFrame_alike (b : Bytes) :
    Alike (execRxFrame b s) (execRxFrame b { s with errSeen := seen, lastErr := last }) := by
  unfold execRxFrame
  split
  · dsimp only
    split
    · exact .returned rfl
    · exact .returned (.mirrorSeq rfl)
    · split_ifs
      · exact .raised rfl
      · exact .returned (.mirrorSeq rfl)
  · exact .raised rfl

theorem execLenLookup_alike (id : Byte) :
    Alike (execLenLookup id s) (execLenLookup id { s with errSeen := seen, lastErr := last }) := by
  unfold execLenLookup
  dsimp only
  split <;> exact .pureReturned rfl

theorem execSplit_alike : Alike (execSplit s) (execSplit { s with errSeen := seen, lastErr := last }) := by
  unfold execSplit
  dsimp only
  split
  · exact .returned rfl
  · exact .raised rfl
  · exact .fault _

theorem execPopSlice_alike : Alike (execPopSlice s) (execPopSlice { s with errSeen := seen, lastErr := last }) := by
  unfold execPopSlice
  dsimp only
  split <;> exact .returned rfl

theorem execCmdIssue_alike (cmd : Byte) (params : Bytes) :
    Alike (execCmdIssue cmd params s) (execCmdIssue cmd params { s with errSeen := seen, lastErr := last }) := by
  unfold execCmdIssue
  split_ifs
  · exact .raised rfl
  · exact .returned rfl

theorem execCmdResponse_alike (b : Bytes) (now : Word) :
    Alike (execCmdResponse b now s) (execCmdResponse b now { s with errSeen := seen, lastErr := last }) := by
  have haccepted : SameButErrors (acceptResponse b now s) (acceptResponse b now { s with errSeen := seen, lastErr := last }) :=
    .acceptResponse rfl
  unfold execCmdResponse
  dsimp only
  split_ifs
  · exact .raised rfl
  · exact .raised rfl
  · exact .returned haccepted
  · exact .returned haccepted

/-- No operation but REG_READ reads the error record. -/
theorem exec_alike {i : Instr} (hi : ∀ n, i ≠ .regRead n) :
    Alike (exec i s) (exec i { s with errSeen := seen, lastErr := last }) := by
  cases i with
  | reset => exact .returned rfl
  | hdrDecode b => exact execHdrDecode_alike s seen last b
  | hdrEncode ch q b => exact execHdrEncode_alike s seen last ch q b
  | txFrame ch b => exact execTxFrame_alike s seen last ch b
  | txCommit ok => exact execTxCommit_alike s seen last ok
  | rxFrame b => exact execRxFrame_alike s seen last b
  | lenLookup id => exact execLenLookup_alike s seen last id
  | split => exact execSplit_alike s seen last
  | popSlice => exact execPopSlice_alike s seen last
  | cmdIssue cmd params => exact execCmdIssue_alike s seen last cmd params
  | cmdResponse b now => exact execCmdResponse_alike s seen last b now
  | regRead reg => exact absurd rfl (hi reg)
  | reserved op => exact .raised rfl

end

/-- Settles O53: the runs with the two records are alike, so the second answers a next state where the first does. -/
theorem errorRecordDecidesNothing : Obligations.ErrorRecordDecidesNothing := by
  intro i s t seen last hi h
  have halike := exec_alike s seen last hi
  rw [h] at halike
  generalize exec i { s with errSeen := seen, lastErr := last } = o at halike ⊢
  cases halike with
  | next hu => exact ⟨_, rfl, hu⟩

end Sys2Proof.Machine
end
